-- ==== Sys2Proof/Word.lean ====
section
/-! DEFINITION. The two word types of the machine (R11): the data byte and the 16-bit CPU address. -/

namespace Sys2Proof

/-- One byte of the 8-bit data bus (R11). -/
abbrev Byte := BitVec 8

/-- A 16-bit CPU address (R11, R200). -/
abbrev Addr := BitVec 16

end Sys2Proof
end

