-- ==== Sys2Proof/Syntax.lean ====
section
/-! DEFINITION. The abstract syntax: operand forms and the one inductive of instructions.
Each mnemonic of spec/opcode_table.json is a constructor and its rows are its operand forms; the rows that share both
carry an index in the table's order, so that no row is lost. No meaning is given here. -/

namespace Sys2Proof

/-- The addressing modes of R301. -/
inductive Mode
  | imp | acc | imm | zp | zpx | zpy | izx | izy | rel | abs | abx | aby | ind
  deriving DecidableEq, Repr

/-- The operand of an instruction that works on a byte: its mode with the operand bytes assembled as R310 says. -/
inductive Operand
  /-- accumulator -/
  | acc
  /-- immediate byte -/
  | imm (v : Byte)
  /-- zero page -/
  | zp (b : Byte)
  /-- zero page,X -/
  | zpx (b : Byte)
  /-- zero page,Y -/
  | zpy (b : Byte)
  /-- (indirect,X) -/
  | izx (b : Byte)
  /-- (indirect),Y -/
  | izy (b : Byte)
  /-- absolute -/
  | abs (w : Addr)
  /-- absolute,X -/
  | abx (w : Addr)
  /-- absolute,Y -/
  | aby (w : Addr)
  deriving DecidableEq, Repr

/-- The mode of an operand. -/
def Operand.mode : Operand → Mode
  | .acc => .acc
  | .imm _ => .imm
  | .zp _ => .zp
  | .zpx _ => .zpx
  | .zpy _ => .zpy
  | .izx _ => .izx
  | .izy _ => .izy
  | .abs _ => .abs
  | .abx _ => .abx
  | .aby _ => .aby

/-- The instructions: the 256 rows of spec/opcode_table.json (R320, R322). -/
inductive Instr
  -- loads, stores, transfers (R450 to R461)
  | lda (o : Operand)
  | ldx (o : Operand)
  | ldy (o : Operand)
  | sta (o : Operand)
  | stx (o : Operand)
  | sty (o : Operand)
  | tax
  | tay
  | txa
  | tya
  | tsx
  | txs
  -- arithmetic, logic, compare, increment, decrement (R505 to R519)
  | adc (o : Operand)
  | sbc (o : Operand)
  | and (o : Operand)
  | ora (o : Operand)
  | eor (o : Operand)
  | bit (o : Operand)
  | cmp (o : Operand)
  | cpx (o : Operand)
  | cpy (o : Operand)
  | inc (o : Operand)
  | dec (o : Operand)
  | inx
  | iny
  | dex
  | dey
  -- shifts and rotates (R561 to R564)
  | asl (o : Operand)
  | lsr (o : Operand)
  | rol (o : Operand)
  | ror (o : Operand)
  -- control flow (R601 to R640)
  | bpl (off : Byte)
  | bmi (off : Byte)
  | bvc (off : Byte)
  | bvs (off : Byte)
  | bcc (off : Byte)
  | bcs (off : Byte)
  | bne (off : Byte)
  | beq (off : Byte)
  | jmpAbs (target : Addr)
  | jmpInd (ptr : Addr)
  | jsr (target : Addr)
  | rts
  | rti
  | brk (signature : Byte)
  -- stack, flags, no operation (R650 to R670)
  | pha
  | pla
  | php
  | plp
  | clc
  | sec
  | cli
  | sei
  | cld
  | sed
  | clv
  | nop
  -- implemented unofficial opcodes (R701 to R724)
  | nopImplied (k : Fin 6)
  | nopImmediate (k : Fin 5) (v : Byte)
  | nopMemory (k : Fin 6) (o : Operand)
  | sbcUnofficial (v : Byte)
  | lax (o : Operand)
  | sax (o : Operand)
  | dcp (o : Operand)
  | isb (o : Operand)
  | slo (o : Operand)
  | rla (o : Operand)
  | sre (o : Operand)
  | rra (o : Operand)
  | sha (o : Operand)
  | shx (o : Operand)
  | shy (o : Operand)
  | tas (o : Operand)
  -- halt (R750)
  | jam (k : Fin 12)
  -- OPEN unofficial opcodes (R771 to R777)
  | anc (k : Fin 2) (v : Byte)
  | alr (v : Byte)
  | arr (v : Byte)
  | xaa (v : Byte)
  | lxa (v : Byte)
  | las (o : Operand)
  | axs (v : Byte)
  deriving DecidableEq, Repr

end Sys2Proof
end

