-- ==== Sys2Proof/WellFormed.lean ====
section
/-! DEFINITION. Which terms of `Instr` stand for a row of the decode table (R320): for each mnemonic, the operand forms its
instruction rule lists. -/

namespace Sys2Proof

/-- The eight forms of the accumulator instructions ORA, AND, EOR, ADC, LDA, CMP, SBC (R450, R505 to R511). -/
def accForms : List Mode := [.izx, .zp, .imm, .abs, .izy, .zpx, .aby, .abx]

/-- The seven forms of STA (R453): those of `accForms` that name memory. -/
def staForms : List Mode := [.izx, .zp, .abs, .izy, .zpx, .aby, .abx]

/-- The forms of a shift or rotate (R561 to R564). -/
def shiftForms : List Mode := [.zp, .acc, .abs, .zpx, .abx]

/-- The forms of INC and DEC (R514, R515). -/
def incForms : List Mode := [.zp, .abs, .zpx, .abx]

/-- The forms of the unofficial read-modify-write instructions (R712 to R717). -/
def comboForms : List Mode := [.izx, .zp, .abs, .izy, .zpx, .aby, .abx]

/-- How many *NOP rows there are in a memory form (R703). -/
def nopMemoryCount : Mode → Nat
  | .zp => 3
  | .zpx => 6
  | .abs => 1
  | .abx => 6
  | _ => 0

/-- The term stands for a row of the decode table. -/
def Instr.wellFormed : Instr → Bool
  | .lda o | .adc o | .sbc o | .and o | .ora o | .eor o | .cmp o => accForms.contains o.mode
  | .ldx o => [Mode.imm, .zp, .abs, .zpy, .aby].contains o.mode
  | .ldy o => [Mode.imm, .zp, .abs, .zpx, .abx].contains o.mode
  | .sta o => staForms.contains o.mode
  | .stx o => [Mode.zp, .abs, .zpy].contains o.mode
  | .sty o => [Mode.zp, .abs, .zpx].contains o.mode
  | .bit o => [Mode.zp, .abs].contains o.mode
  | .cpx o | .cpy o => [Mode.imm, .zp, .abs].contains o.mode
  | .inc o | .dec o => incForms.contains o.mode
  | .asl o | .lsr o | .rol o | .ror o => shiftForms.contains o.mode
  | .nopMemory k o => decide (k.val < nopMemoryCount o.mode)
  | .lax o => [Mode.izx, .zp, .abs, .izy, .zpy, .aby].contains o.mode
  | .sax o => [Mode.izx, .zp, .abs, .zpy].contains o.mode
  | .dcp o | .isb o | .slo o | .rla o | .sre o | .rra o => comboForms.contains o.mode
  | .sha o => [Mode.izy, .aby].contains o.mode
  | .shx o | .tas o | .las o => [Mode.aby].contains o.mode
  | .shy o => [Mode.abx].contains o.mode
  | .tax | .tay | .txa | .tya | .tsx | .txs | .inx | .iny | .dex | .dey => true
  | .bpl _ | .bmi _ | .bvc _ | .bvs _ | .bcc _ | .bcs _ | .bne _ | .beq _ => true
  | .jmpAbs _ | .jmpInd _ | .jsr _ | .rts | .rti | .brk _ => true
  | .pha | .pla | .php | .plp | .clc | .sec | .cli | .sei | .cld | .sed | .clv | .nop => true
  | .nopImplied _ | .nopImmediate _ _ | .sbcUnofficial _ | .jam _ => true
  | .anc _ _ | .alr _ | .arr _ | .xaa _ | .lxa _ | .axs _ => true

end Sys2Proof
end

