-- ==== Sys2Proof/Decode.lean ====
section
/-! DEFINITION. The decoder (R300 to R350) and, after it, the encoder.
The decoder is a lookup of the opcode byte in the 256-row table of R320; it is total on any bytes and rejects by name.
The encoder is written from the Encoding lists of the instruction rules (files 41 to 46), not from that table, so that
their agreement says something. The byte-order and sign-extension helpers stand here too. -/

namespace Sys2Proof

/-- `{hi, lo}` as a 16-bit number (R16, R270). -/
def join (hi lo : Byte) : Addr := hi ++ lo

/-- Bits 15..8 (R16). -/
def hiByte (w : Addr) : Byte := w.extractLsb' 8 8

/-- Bits 7..0 (R16). -/
def loByte (w : Addr) : Byte := w.extractLsb' 0 8

/-- `zext_16` (R16). -/
def zext (b : Byte) : Addr := b.setWidth 16

/-- `sext_8` at 16 bits (R16, R311): the only sign extension of the instruction set. -/
def sext (b : Byte) : Addr := b.signExtend 16

/-- The number of operand bytes that follow the opcode, by mode (R301). -/
def Mode.operandBytes : Mode → Nat
  | .imp | .acc => 0
  | .imm | .zp | .zpx | .zpy | .izx | .izy | .rel => 1
  | .abs | .abx | .aby | .ind => 2

/-- The operand a mode makes of the bytes after the opcode (R302, R310). -/
def Operand.ofBytes (m : Mode) (b1 b2 : Byte) : Operand :=
  match m with
  | .imm => .imm b1
  | .zp => .zp b1
  | .zpx => .zpx b1
  | .zpy => .zpy b1
  | .izx => .izx b1
  | .izy => .izy b1
  | .abs => .abs (join b2 b1)
  | .abx => .abx (join b2 b1)
  | .aby => .aby (join b2 b1)
  | .acc | .imp | .rel | .ind => .acc

/-- The class column of R320. -/
inductive OpClass | legal | unofficial | openSet | jam
  deriving DecidableEq, Repr

/-- One row of the decode table (R320). -/
structure Row where
  /-- base cycles -/
  base : Nat
  /-- class -/
  cls : OpClass
  /-- operand bytes of the encoding: its length less one (JAM and BRK as R301 says) -/
  operands : Nat
  /-- operand bytes fetched over the bus before the effect function's other accesses (R331): all of them, but that BRK skips
  its signature byte (R640) and JSR fetches its high byte after its pushes (R620) -/
  fetches : Nat
  /-- the instruction, of the two bytes after the opcode -/
  build : Byte → Byte → Instr

namespace Row

/-- A row with a byte operand. -/
def operand (c : OpClass) (m : Mode) (base : Nat) (f : Operand → Instr) : Row :=
  ⟨base, c, m.operandBytes, m.operandBytes, fun b1 b2 => f (.ofBytes m b1 b2)⟩

/-- A row with an immediate byte that only this mode has. -/
def immediate (c : OpClass) (base : Nat) (f : Byte → Instr) : Row :=
  ⟨base, c, 1, 1, fun b1 _ => f b1⟩

/-- A one-byte row. -/
def one (c : OpClass) (base : Nat) (i : Instr) : Row :=
  ⟨base, c, 0, 0, fun _ _ => i⟩

/-- A branch row (mode rel). -/
def branch (base : Nat) (f : Byte → Instr) : Row :=
  ⟨base, .legal, 1, 1, fun b1 _ => f b1⟩

/-- A JMP row: mode abs or ind, both two operand bytes. -/
def word (m : Mode) (base : Nat) (f : Addr → Instr) : Row :=
  ⟨base, .legal, m.operandBytes, m.operandBytes, fun b1 b2 => f (join b2 b1)⟩

/-- The JSR row (R620). -/
def jsr : Row := ⟨6, .legal, 2, 1, fun b1 b2 => .jsr (join b2 b1)⟩

/-- The BRK row (R640): length 2. -/
def brk : Row := ⟨7, .legal, 1, 0, fun b1 _ => .brk b1⟩

/-- A JAM row: the zero-cycle placeholder (R340). -/
def jam (k : Fin 12) : Row := ⟨0, .jam, 0, 0, fun _ _ => .jam k⟩

/-- Rows $00 to $0F of R320. -/
def row0 : List Row :=
  [ brk,
    operand .legal .izx 6 .ora,
    jam 0,
    operand .unofficial .izx 8 .slo,
    operand .unofficial .zp 3 (.nopMemory 0),
    operand .legal .zp 3 .ora,
    operand .legal .zp 5 .asl,
    operand .unofficial .zp 5 .slo,
    one .legal 3 .php,
    operand .legal .imm 2 .ora,
    operand .legal .acc 2 .asl,
    immediate .openSet 2 (.anc 0),
    operand .unofficial .abs 4 (.nopMemory 0),
    operand .legal .abs 4 .ora,
    operand .legal .abs 6 .asl,
    operand .unofficial .abs 6 .slo ]

/-- Rows $10 to $1F of R320. -/
def row1 : List Row :=
  [ branch 2 .bpl,
    operand .legal .izy 5 .ora,
    jam 1,
    operand .unofficial .izy 8 .slo,
    operand .unofficial .zpx 4 (.nopMemory 0),
    operand .legal .zpx 4 .ora,
    operand .legal .zpx 6 .asl,
    operand .unofficial .zpx 6 .slo,
    one .legal 2 .clc,
    operand .legal .aby 4 .ora,
    one .unofficial 2 (.nopImplied 0),
    operand .unofficial .aby 7 .slo,
    operand .unofficial .abx 4 (.nopMemory 0),
    operand .legal .abx 4 .ora,
    operand .legal .abx 7 .asl,
    operand .unofficial .abx 7 .slo ]

/-- Rows $20 to $2F of R320. -/
def row2 : List Row :=
  [ jsr,
    operand .legal .izx 6 .and,
    jam 2,
    operand .unofficial .izx 8 .rla,
    operand .legal .zp 3 .bit,
    operand .legal .zp 3 .and,
    operand .legal .zp 5 .rol,
    operand .unofficial .zp 5 .rla,
    one .legal 4 .plp,
    operand .legal .imm 2 .and,
    operand .legal .acc 2 .rol,
    immediate .openSet 2 (.anc 1),
    operand .legal .abs 4 .bit,
    operand .legal .abs 4 .and,
    operand .legal .abs 6 .rol,
    operand .unofficial .abs 6 .rla ]

/-- Rows $30 to $3F of R320. -/
def row3 : List Row :=
  [ branch 2 .bmi,
    operand .legal .izy 5 .and,
    jam 3,
    operand .unofficial .izy 8 .rla,
    operand .unofficial .zpx 4 (.nopMemory 1),
    operand .legal .zpx 4 .and,
    operand .legal .zpx 6 .rol,
    operand .unofficial .zpx 6 .rla,
    one .legal 2 .sec,
    operand .legal .aby 4 .and,
    one .unofficial 2 (.nopImplied 1),
    operand .unofficial .aby 7 .rla,
    operand .unofficial .abx 4 (.nopMemory 1),
    operand .legal .abx 4 .and,
    operand .legal .abx 7 .rol,
    operand .unofficial .abx 7 .rla ]

/-- Rows $40 to $4F of R320. -/
def row4 : List Row :=
  [ one .legal 6 .rti,
    operand .legal .izx 6 .eor,
    jam 4,
    operand .unofficial .izx 8 .sre,
    operand .unofficial .zp 3 (.nopMemory 1),
    operand .legal .zp 3 .eor,
    operand .legal .zp 5 .lsr,
    operand .unofficial .zp 5 .sre,
    one .legal 3 .pha,
    operand .legal .imm 2 .eor,
    operand .legal .acc 2 .lsr,
    immediate .openSet 2 .alr,
    word .abs 3 .jmpAbs,
    operand .legal .abs 4 .eor,
    operand .legal .abs 6 .lsr,
    operand .unofficial .abs 6 .sre ]

/-- Rows $50 to $5F of R320. -/
def row5 : List Row :=
  [ branch 2 .bvc,
    operand .legal .izy 5 .eor,
    jam 5,
    operand .unofficial .izy 8 .sre,
    operand .unofficial .zpx 4 (.nopMemory 2),
    operand .legal .zpx 4 .eor,
    operand .legal .zpx 6 .lsr,
    operand .unofficial .zpx 6 .sre,
    one .legal 2 .cli,
    operand .legal .aby 4 .eor,
    one .unofficial 2 (.nopImplied 2),
    operand .unofficial .aby 7 .sre,
    operand .unofficial .abx 4 (.nopMemory 2),
    operand .legal .abx 4 .eor,
    operand .legal .abx 7 .lsr,
    operand .unofficial .abx 7 .sre ]

/-- Rows $60 to $6F of R320. -/
def row6 : List Row :=
  [ one .legal 6 .rts,
    operand .legal .izx 6 .adc,
    jam 6,
    operand .unofficial .izx 8 .rra,
    operand .unofficial .zp 3 (.nopMemory 2),
    operand .legal .zp 3 .adc,
    operand .legal .zp 5 .ror,
    operand .unofficial .zp 5 .rra,
    one .legal 4 .pla,
    operand .legal .imm 2 .adc,
    operand .legal .acc 2 .ror,
    immediate .openSet 2 .arr,
    word .ind 5 .jmpInd,
    operand .legal .abs 4 .adc,
    operand .legal .abs 6 .ror,
    operand .unofficial .abs 6 .rra ]

/-- Rows $70 to $7F of R320. -/
def row7 : List Row :=
  [ branch 2 .bvs,
    operand .legal .izy 5 .adc,
    jam 7,
    operand .unofficial .izy 8 .rra,
    operand .unofficial .zpx 4 (.nopMemory 3),
    operand .legal .zpx 4 .adc,
    operand .legal .zpx 6 .ror,
    operand .unofficial .zpx 6 .rra,
    one .legal 2 .sei,
    operand .legal .aby 4 .adc,
    one .unofficial 2 (.nopImplied 3),
    operand .unofficial .aby 7 .rra,
    operand .unofficial .abx 4 (.nopMemory 3),
    operand .legal .abx 4 .adc,
    operand .legal .abx 7 .ror,
    operand .unofficial .abx 7 .rra ]

/-- Rows $80 to $8F of R320. -/
def row8 : List Row :=
  [ immediate .unofficial 2 (.nopImmediate 0),
    operand .legal .izx 6 .sta,
    immediate .unofficial 2 (.nopImmediate 1),
    operand .unofficial .izx 6 .sax,
    operand .legal .zp 3 .sty,
    operand .legal .zp 3 .sta,
    operand .legal .zp 3 .stx,
    operand .unofficial .zp 3 .sax,
    one .legal 2 .dey,
    immediate .unofficial 2 (.nopImmediate 2),
    one .legal 2 .txa,
    immediate .openSet 2 .xaa,
    operand .legal .abs 4 .sty,
    operand .legal .abs 4 .sta,
    operand .legal .abs 4 .stx,
    operand .unofficial .abs 4 .sax ]

/-- Rows $90 to $9F of R320. -/
def row9 : List Row :=
  [ branch 2 .bcc,
    operand .legal .izy 6 .sta,
    jam 8,
    operand .unofficial .izy 6 .sha,
    operand .legal .zpx 4 .sty,
    operand .legal .zpx 4 .sta,
    operand .legal .zpy 4 .stx,
    operand .unofficial .zpy 4 .sax,
    one .legal 2 .tya,
    operand .legal .aby 5 .sta,
    one .legal 2 .txs,
    operand .unofficial .aby 5 .tas,
    operand .unofficial .abx 5 .shy,
    operand .legal .abx 5 .sta,
    operand .unofficial .aby 5 .shx,
    operand .unofficial .aby 5 .sha ]

/-- Rows $A0 to $AF of R320. -/
def rowA : List Row :=
  [ operand .legal .imm 2 .ldy,
    operand .legal .izx 6 .lda,
    operand .legal .imm 2 .ldx,
    operand .unofficial .izx 6 .lax,
    operand .legal .zp 3 .ldy,
    operand .legal .zp 3 .lda,
    operand .legal .zp 3 .ldx,
    operand .unofficial .zp 3 .lax,
    one .legal 2 .tay,
    operand .legal .imm 2 .lda,
    one .legal 2 .tax,
    immediate .openSet 2 .lxa,
    operand .legal .abs 4 .ldy,
    operand .legal .abs 4 .lda,
    operand .legal .abs 4 .ldx,
    operand .unofficial .abs 4 .lax ]

/-- Rows $B0 to $BF of R320. -/
def rowB : List Row :=
  [ branch 2 .bcs,
    operand .legal .izy 5 .lda,
    jam 9,
    operand .unofficial .izy 5 .lax,
    operand .legal .zpx 4 .ldy,
    operand .legal .zpx 4 .lda,
    operand .legal .zpy 4 .ldx,
    operand .unofficial .zpy 4 .lax,
    one .legal 2 .clv,
    operand .legal .aby 4 .lda,
    one .legal 2 .tsx,
    operand .openSet .aby 4 .las,
    operand .legal .abx 4 .ldy,
    operand .legal .abx 4 .lda,
    operand .legal .aby 4 .ldx,
    operand .unofficial .aby 4 .lax ]

/-- Rows $C0 to $CF of R320. -/
def rowC : List Row :=
  [ operand .legal .imm 2 .cpy,
    operand .legal .izx 6 .cmp,
    immediate .unofficial 2 (.nopImmediate 3),
    operand .unofficial .izx 8 .dcp,
    operand .legal .zp 3 .cpy,
    operand .legal .zp 3 .cmp,
    operand .legal .zp 5 .dec,
    operand .unofficial .zp 5 .dcp,
    one .legal 2 .iny,
    operand .legal .imm 2 .cmp,
    one .legal 2 .dex,
    immediate .openSet 2 .axs,
    operand .legal .abs 4 .cpy,
    operand .legal .abs 4 .cmp,
    operand .legal .abs 6 .dec,
    operand .unofficial .abs 6 .dcp ]

/-- Rows $D0 to $DF of R320. -/
def rowD : List Row :=
  [ branch 2 .bne,
    operand .legal .izy 5 .cmp,
    jam 10,
    operand .unofficial .izy 8 .dcp,
    operand .unofficial .zpx 4 (.nopMemory 4),
    operand .legal .zpx 4 .cmp,
    operand .legal .zpx 6 .dec,
    operand .unofficial .zpx 6 .dcp,
    one .legal 2 .cld,
    operand .legal .aby 4 .cmp,
    one .unofficial 2 (.nopImplied 4),
    operand .unofficial .aby 7 .dcp,
    operand .unofficial .abx 4 (.nopMemory 4),
    operand .legal .abx 4 .cmp,
    operand .legal .abx 7 .dec,
    operand .unofficial .abx 7 .dcp ]

/-- Rows $E0 to $EF of R320. -/
def rowE : List Row :=
  [ operand .legal .imm 2 .cpx,
    operand .legal .izx 6 .sbc,
    immediate .unofficial 2 (.nopImmediate 4),
    operand .unofficial .izx 8 .isb,
    operand .legal .zp 3 .cpx,
    operand .legal .zp 3 .sbc,
    operand .legal .zp 5 .inc,
    operand .unofficial .zp 5 .isb,
    one .legal 2 .inx,
    operand .legal .imm 2 .sbc,
    one .legal 2 .nop,
    immediate .unofficial 2 .sbcUnofficial,
    operand .legal .abs 4 .cpx,
    operand .legal .abs 4 .sbc,
    operand .legal .abs 6 .inc,
    operand .unofficial .abs 6 .isb ]

/-- Rows $F0 to $FF of R320. -/
def rowF : List Row :=
  [ branch 2 .beq,
    operand .legal .izy 5 .sbc,
    jam 11,
    operand .unofficial .izy 8 .isb,
    operand .unofficial .zpx 4 (.nopMemory 5),
    operand .legal .zpx 4 .sbc,
    operand .legal .zpx 6 .inc,
    operand .unofficial .zpx 6 .isb,
    one .legal 2 .sed,
    operand .legal .aby 4 .sbc,
    one .unofficial 2 (.nopImplied 5),
    operand .unofficial .aby 7 .isb,
    operand .unofficial .abx 4 (.nopMemory 5),
    operand .legal .abx 4 .sbc,
    operand .legal .abx 7 .inc,
    operand .unofficial .abx 7 .isb ]

/-- The decode table of R320, one list per high nibble, as R321 lays it out. -/
def table : List (List Row) :=
  [row0, row1, row2, row3, row4, row5, row6, row7, row8, row9, rowA, rowB, rowC, rowD, rowE, rowF]

end Row

/-- The row of an opcode byte (R320): every byte has one. -/
def rowOf (op : Byte) : Row :=
  ((Row.table.getD (op.toNat / 16) []).getD (op.toNat % 16) (Row.jam 0))

/-- The instruction of an opcode byte and the two bytes after it (R300). -/
def instrOf (b0 b1 b2 : Byte) : Instr := (rowOf b0).build b1 b2

/-- Why bytes are no instruction. -/
inductive DecodeError
  /-- there is no opcode byte -/
  | noBytes
  /-- the operand bytes the opcode asks for are missing -/
  | truncated (opcode : Byte)
  deriving DecidableEq, Repr

/-- Decode the first instruction of a list of bytes, with the bytes after it (R330, R350). -/
def decode : List Byte → Except DecodeError (Instr × List Byte)
  | [] => .error .noBytes
  | b0 :: rest =>
    if rest.length < (rowOf b0).operands then .error (.truncated b0)
    else .ok (instrOf b0 (rest.getD 0 0) (rest.getD 1 0), rest.drop (rowOf b0).operands)

/-- The instruction the decoder reads from the bits `w` of an instruction of the table, its first byte lowest; bits from
`nbits` up are 0. -/
def decodeTableWord (nbits w : Nat) : Option Instr :=
  let v := w % 2 ^ nbits
  match decode [BitVec.ofNat 8 v, BitVec.ofNat 8 (v / 2 ^ 8), BitVec.ofNat 8 (v / 2 ^ 16)] with
  | .ok (i, _) => some i
  | .error _ => none

/-! ## The encoder -/

/-- The opcode a form list gives the operand's mode. -/
def pickForm (o : Operand) (forms : List (Mode × Nat)) : Option Nat :=
  (forms.find? (fun f => f.1 == o.mode)).map (·.2)

/-- The *NOP opcodes of a memory form, in the order of R703. -/
def nopMemoryOpcodes : Mode → List Nat
  | .zp => [0x04, 0x44, 0x64]
  | .zpx => [0x14, 0x34, 0x54, 0x74, 0xD4, 0xF4]
  | .abs => [0x0C]
  | .abx => [0x1C, 0x3C, 0x5C, 0x7C, 0xDC, 0xFC]
  | _ => []

/-- The opcode byte of an instruction, from the Encoding list of its rule; none where no row has its form. -/
def Instr.opcode : Instr → Option Nat
  | .lda o => pickForm o [(.izx, 0xA1), (.zp, 0xA5), (.imm, 0xA9), (.abs, 0xAD), (.izy, 0xB1), (.zpx, 0xB5), (.aby, 0xB9), (.abx, 0xBD)]
  | .ldx o => pickForm o [(.imm, 0xA2), (.zp, 0xA6), (.abs, 0xAE), (.zpy, 0xB6), (.aby, 0xBE)]
  | .ldy o => pickForm o [(.imm, 0xA0), (.zp, 0xA4), (.abs, 0xAC), (.zpx, 0xB4), (.abx, 0xBC)]
  | .sta o => pickForm o [(.izx, 0x81), (.zp, 0x85), (.abs, 0x8D), (.izy, 0x91), (.zpx, 0x95), (.aby, 0x99), (.abx, 0x9D)]
  | .stx o => pickForm o [(.zp, 0x86), (.abs, 0x8E), (.zpy, 0x96)]
  | .sty o => pickForm o [(.zp, 0x84), (.abs, 0x8C), (.zpx, 0x94)]
  | .tax => some 0xAA
  | .tay => some 0xA8
  | .txa => some 0x8A
  | .tya => some 0x98
  | .tsx => some 0xBA
  | .txs => some 0x9A
  | .adc o => pickForm o [(.izx, 0x61), (.zp, 0x65), (.imm, 0x69), (.abs, 0x6D), (.izy, 0x71), (.zpx, 0x75), (.aby, 0x79), (.abx, 0x7D)]
  | .sbc o => pickForm o [(.izx, 0xE1), (.zp, 0xE5), (.imm, 0xE9), (.abs, 0xED), (.izy, 0xF1), (.zpx, 0xF5), (.aby, 0xF9), (.abx, 0xFD)]
  | .and o => pickForm o [(.izx, 0x21), (.zp, 0x25), (.imm, 0x29), (.abs, 0x2D), (.izy, 0x31), (.zpx, 0x35), (.aby, 0x39), (.abx, 0x3D)]
  | .ora o => pickForm o [(.izx, 0x01), (.zp, 0x05), (.imm, 0x09), (.abs, 0x0D), (.izy, 0x11), (.zpx, 0x15), (.aby, 0x19), (.abx, 0x1D)]
  | .eor o => pickForm o [(.izx, 0x41), (.zp, 0x45), (.imm, 0x49), (.abs, 0x4D), (.izy, 0x51), (.zpx, 0x55), (.aby, 0x59), (.abx, 0x5D)]
  | .bit o => pickForm o [(.zp, 0x24), (.abs, 0x2C)]
  | .cmp o => pickForm o [(.izx, 0xC1), (.zp, 0xC5), (.imm, 0xC9), (.abs, 0xCD), (.izy, 0xD1), (.zpx, 0xD5), (.aby, 0xD9), (.abx, 0xDD)]
  | .cpx o => pickForm o [(.imm, 0xE0), (.zp, 0xE4), (.abs, 0xEC)]
  | .cpy o => pickForm o [(.imm, 0xC0), (.zp, 0xC4), (.abs, 0xCC)]
  | .inc o => pickForm o [(.zp, 0xE6), (.abs, 0xEE), (.zpx, 0xF6), (.abx, 0xFE)]
  | .dec o => pickForm o [(.zp, 0xC6), (.abs, 0xCE), (.zpx, 0xD6), (.abx, 0xDE)]
  | .inx => some 0xE8
  | .iny => some 0xC8
  | .dex => some 0xCA
  | .dey => some 0x88
  | .asl o => pickForm o [(.zp, 0x06), (.acc, 0x0A), (.abs, 0x0E), (.zpx, 0x16), (.abx, 0x1E)]
  | .lsr o => pickForm o [(.zp, 0x46), (.acc, 0x4A), (.abs, 0x4E), (.zpx, 0x56), (.abx, 0x5E)]
  | .rol o => pickForm o [(.zp, 0x26), (.acc, 0x2A), (.abs, 0x2E), (.zpx, 0x36), (.abx, 0x3E)]
  | .ror o => pickForm o [(.zp, 0x66), (.acc, 0x6A), (.abs, 0x6E), (.zpx, 0x76), (.abx, 0x7E)]
  | .bpl _ => some 0x10
  | .bmi _ => some 0x30
  | .bvc _ => some 0x50
  | .bvs _ => some 0x70
  | .bcc _ => some 0x90
  | .bcs _ => some 0xB0
  | .bne _ => some 0xD0
  | .beq _ => some 0xF0
  | .jmpAbs _ => some 0x4C
  | .jmpInd _ => some 0x6C
  | .jsr _ => some 0x20
  | .rts => some 0x60
  | .rti => some 0x40
  | .brk _ => some 0x00
  | .pha => some 0x48
  | .pla => some 0x68
  | .php => some 0x08
  | .plp => some 0x28
  | .clc => some 0x18
  | .sec => some 0x38
  | .cli => some 0x58
  | .sei => some 0x78
  | .cld => some 0xD8
  | .sed => some 0xF8
  | .clv => some 0xB8
  | .nop => some 0xEA
  | .nopImplied k => [0x1A, 0x3A, 0x5A, 0x7A, 0xDA, 0xFA][k.val]?
  | .nopImmediate k _ => [0x80, 0x82, 0x89, 0xC2, 0xE2][k.val]?
  | .nopMemory k o => (nopMemoryOpcodes o.mode)[k.val]?
  | .sbcUnofficial _ => some 0xEB
  | .lax o => pickForm o [(.izx, 0xA3), (.zp, 0xA7), (.abs, 0xAF), (.izy, 0xB3), (.zpy, 0xB7), (.aby, 0xBF)]
  | .sax o => pickForm o [(.izx, 0x83), (.zp, 0x87), (.abs, 0x8F), (.zpy, 0x97)]
  | .dcp o => pickForm o [(.izx, 0xC3), (.zp, 0xC7), (.abs, 0xCF), (.izy, 0xD3), (.zpx, 0xD7), (.aby, 0xDB), (.abx, 0xDF)]
  | .isb o => pickForm o [(.izx, 0xE3), (.zp, 0xE7), (.abs, 0xEF), (.izy, 0xF3), (.zpx, 0xF7), (.aby, 0xFB), (.abx, 0xFF)]
  | .slo o => pickForm o [(.izx, 0x03), (.zp, 0x07), (.abs, 0x0F), (.izy, 0x13), (.zpx, 0x17), (.aby, 0x1B), (.abx, 0x1F)]
  | .rla o => pickForm o [(.izx, 0x23), (.zp, 0x27), (.abs, 0x2F), (.izy, 0x33), (.zpx, 0x37), (.aby, 0x3B), (.abx, 0x3F)]
  | .sre o => pickForm o [(.izx, 0x43), (.zp, 0x47), (.abs, 0x4F), (.izy, 0x53), (.zpx, 0x57), (.aby, 0x5B), (.abx, 0x5F)]
  | .rra o => pickForm o [(.izx, 0x63), (.zp, 0x67), (.abs, 0x6F), (.izy, 0x73), (.zpx, 0x77), (.aby, 0x7B), (.abx, 0x7F)]
  | .sha o => pickForm o [(.izy, 0x93), (.aby, 0x9F)]
  | .shx o => pickForm o [(.aby, 0x9E)]
  | .shy o => pickForm o [(.abx, 0x9C)]
  | .tas o => pickForm o [(.aby, 0x9B)]
  | .jam k => [0x02, 0x12, 0x22, 0x32, 0x42, 0x52, 0x62, 0x72, 0x92, 0xB2, 0xD2, 0xF2][k.val]?
  | .anc k _ => [0x0B, 0x2B][k.val]?
  | .alr _ => some 0x4B
  | .arr _ => some 0x6B
  | .xaa _ => some 0x8B
  | .lxa _ => some 0xAB
  | .las o => pickForm o [(.aby, 0xBB)]
  | .axs _ => some 0xCB

/-- The bytes of an operand, low byte first (R302, R270). -/
def Operand.bytes : Operand → List Byte
  | .acc => []
  | .imm b | .zp b | .zpx b | .zpy b | .izx b | .izy b => [b]
  | .abs w | .abx w | .aby w => [loByte w, hiByte w]

/-- The operand bytes of an instruction (R302). -/
def Instr.operandBytes : Instr → List Byte
  | .lda o | .ldx o | .ldy o | .sta o | .stx o | .sty o => o.bytes
  | .adc o | .sbc o | .and o | .ora o | .eor o | .bit o | .cmp o | .cpx o | .cpy o => o.bytes
  | .inc o | .dec o | .asl o | .lsr o | .rol o | .ror o => o.bytes
  | .nopMemory _ o | .lax o | .sax o | .dcp o | .isb o | .slo o | .rla o | .sre o | .rra o => o.bytes
  | .sha o | .shx o | .shy o | .tas o | .las o => o.bytes
  | .bpl b | .bmi b | .bvc b | .bvs b | .bcc b | .bcs b | .bne b | .beq b | .brk b => [b]
  | .nopImmediate _ b | .sbcUnofficial b | .anc _ b | .alr b | .arr b | .xaa b | .lxa b | .axs b => [b]
  | .jmpAbs w | .jmpInd w | .jsr w => [loByte w, hiByte w]
  | .tax | .tay | .txa | .tya | .tsx | .txs | .inx | .iny | .dex | .dey => []
  | .rts | .rti | .pha | .pla | .php | .plp => []
  | .clc | .sec | .cli | .sei | .cld | .sed | .clv | .nop | .nopImplied _ | .jam _ => []

/-- The bytes of a well-formed instruction, opcode first (R300); an ill-formed term has none. -/
def encode (i : Instr) : List Byte :=
  match i.opcode with
  | some n => BitVec.ofNat 8 n :: i.operandBytes
  | none => []

end Sys2Proof
end

