-- ==== Sys2Proof/Config.lean ====
section
/-! DEFINITION. The parameters of the machine (R15, spec/92_eei_decisions.md).
A parameter that is plain data is a field of `Params`, which the state carries, so that a claim about every state is a
claim about every value of it. A parameter the spec leaves OPEN, and every value a run may find arbitrary, is a constant
with no body: nothing can evaluate it, so no claim can rest on a value of it. -/

namespace Sys2Proof

/-- Meaning of the OPEN unofficial opcodes (R770, D7). -/
inductive ExtraUnofficial | refuse | jam | nmos
  deriving DecidableEq, Repr, Inhabited

/-- Target address of SHA, SHX, SHY, TAS when the index crosses a page (R720, D8). -/
inductive ShAddrOnCross | andHigh | normal
  deriving DecidableEq, Repr, Inhabited

/-- Bits 7..1 of a controller read (R871, D47). -/
inductive HighBits | openBus | zero
  deriving DecidableEq, Repr, Inhabited

/-- When JSR fetches its high operand byte: after its pushes (R620), or before them, as every instruction fetches its operands
(R284, R331, R400). The spec's rules differ and no entry of spec/90_conflicts.md names them (log 22). -/
inductive JsrHighFetch | afterPushes | beforePushes
  deriving DecidableEq, Repr, Inhabited

/-- What a halted call does: nothing, so that every halted state is a fixed point (R850, D14), or the bus read of R861, whose
effects a register at PC shows. The two differ at a register address alone (log 24). -/
inductive JamRefetch | fixedPoint | busRead
  deriving DecidableEq, Repr, Inhabited

/-- The RAMs whose power-on contents are INIT_MEM (R1100 step 2). -/
inductive RamKind | work | save | pattern | oam | nametable | palette
  deriving DecidableEq, Repr

/-- One entry of the display's colour table (R965), with 8 bits for each component (DESIGN CHOICE, log 23). -/
structure Rgb where
  r : Byte
  g : Byte
  b : Byte
  deriving DecidableEq, Repr, Inhabited

namespace Config

/-- INIT_MEM (R1105, D22): what a RAM byte that nothing has written holds. A free value (log 2). -/
opaque initMem : RamKind → Nat → Byte

/-- INIT_OPEN_BUS (R1105, D54): the open-bus latch before the first access. A free value (log 5). -/
opaque initOpenBus : Byte

/-- MAGIC (R774, D9): the fresh byte of each XAA or LXA execution, by the number of the draw. A free value (log 6). -/
opaque magic : Nat → Byte

/-- HOST_BUTTONS (R873): the host's button mask at a cycle count. A free input (log 7). -/
opaque hostButtons : Nat → Byte

/-- RGB_PALETTE (R965, D60): OPEN (log 8). -/
opaque rgbPalette : BitVec 6 → Rgb

/-- SAMPLE_FORMAT (R1072, D45): the bytes that encode a sample. OPEN (log 8). -/
opaque sampleFormat : Real → List Byte

/-- HPF_ALPHA, or none for 1 (log 8). -/
opaque hpfAlphaGiven : Option (Set.Ioc (0 : Real) 1)

/-- SH_ADDR_ON_CROSS at power-on (D8): OPEN (log 5). -/
opaque shAddrOnCross : ShAddrOnCross

/-- RMW_DUMMY_WRITE at power-on (D12): OPEN (log 5). -/
opaque rmwDummyWrite : Bool

/-- MMC1_RESET_SETS_MODE3 at power-on (D31): OPEN (log 5). -/
opaque mmc1ResetSetsMode3 : Bool

/-- MMC1_CONSECUTIVE_FILTER at power-on (D33): OPEN (log 5). -/
opaque mmc1ConsecutiveFilter : Bool

/-- END_ADDR (D52): OPEN (log 5). -/
opaque endAddr : Option Addr

/-- HPF_ALPHA (R1072, D45): any real in (0, 1], and nothing says which (log 8). -/
def hpfAlpha : Set.Ioc (0 : Real) 1 := hpfAlphaGiven.getD 1

end Config

/-- The parameters of R15 that are plain data, and the model's own `jsrHighFetch` (log 22) and `jamRefetch` (log 24). -/
structure Params where
  /-- DECIMAL_MODE (R502, D4). -/
  decimalMode : Bool
  /-- EXTRA_UNOFFICIAL (R770, D7). -/
  extraUnofficial : ExtraUnofficial
  /-- SH_ADDR_ON_CROSS (R720, D8). -/
  shAddrOnCross : ShAddrOnCross
  /-- RMW_DUMMY_WRITE (R421, D12). -/
  rmwDummyWrite : Bool
  /-- HIJACK_WINDOW (R825, D18), in CPU cycles, 0 to 6. -/
  hijackWindow : Nat
  /-- MMC1_RESET_SETS_MODE3 (R241, D31). -/
  mmc1ResetSetsMode3 : Bool
  /-- MMC1_CONSECUTIVE_FILTER (R248, D33). -/
  mmc1ConsecutiveFilter : Bool
  /-- SPRITE_Y_OFFSET (R962, D39). -/
  spriteYOffset : Nat
  /-- CLIP_LEFT (R961, D39). -/
  clipLeft : Bool
  /-- NMI_ON_ENABLE (R921, D41). -/
  nmiOnEnable : Bool
  /-- FRAME_WRITE_DELAY when `cycles` is even at the write (R1062, D44). -/
  frameDelayEven : Nat
  /-- FRAME_WRITE_DELAY when `cycles` is odd at the write (R1062, D44). -/
  frameDelayOdd : Nat
  /-- SAMPLE_PERIOD (R1071, D45). -/
  samplePeriod : Rat
  /-- CONTROLLER_HIGH_BITS (R871, D47). -/
  controllerHighBits : HighBits
  /-- INIT_MEM (D22): `none` is arbitrary contents (`Config.initMem`), `some b` is every RAM byte `b`
  (the trace harness uses zero, R1105). -/
  initFill : Option Byte
  /-- INIT_OPEN_BUS (D54): `none` is an arbitrary byte (`Config.initOpenBus`), `some b` is `b` (R1105). -/
  initOpenBus : Option Byte
  /-- END_ADDR (R864, D52). -/
  endAddr : Option Addr
  /-- when JSR fetches its high operand byte; not a parameter of R15 (log 22) -/
  jsrHighFetch : JsrHighFetch
  /-- what a halted call does; not a parameter of R15 (log 24) -/
  jamRefetch : JamRefetch
  deriving DecidableEq, Repr

/-- The default parameters: the spec's default where it gives one (spec/92_eei_decisions.md), a constant with no body where
it is OPEN (log 5), R620's reading for `jsrHighFetch` (log 22) and R850's for
`jamRefetch` (log 24). -/
def Params.standard : Params where
  decimalMode := false
  extraUnofficial := .refuse
  shAddrOnCross := Config.shAddrOnCross
  rmwDummyWrite := Config.rmwDummyWrite
  hijackWindow := 4
  mmc1ResetSetsMode3 := Config.mmc1ResetSetsMode3
  mmc1ConsecutiveFilter := Config.mmc1ConsecutiveFilter
  spriteYOffset := 1
  clipLeft := true
  nmiOnEnable := true
  frameDelayEven := 3
  frameDelayOdd := 4
  samplePeriod := 65625 / 1617
  controllerHighBits := .openBus
  initFill := none
  initOpenBus := none
  endAddr := Config.endAddr
  jsrHighFetch := .afterPushes
  jamRefetch := .fixedPoint

/-- The parameters at `State.reset`: the defaults, but EXTRA_UNOFFICIAL = nmos, so that the OPEN opcodes execute
(DESIGN CHOICE, log 4). -/
def Params.atReset : Params := { Params.standard with extraUnofficial := .nmos }

/-- The trace harness's parameters (R1105): zero for INIT_MEM and INIT_OPEN_BUS. -/
def Params.traceHarness (p : Params) : Params := { p with initFill := some 0, initOpenBus := some 0 }

end Sys2Proof
end

