-- ==== Sys2Proof/Machine/State.lean ====
section
/-! DEFINITION. The state of the machine as plain data, its reset value, and the reasons a step can stop.
Each field names the rule of spec/ that gives it. -/

namespace Sys2Proof.Machine

/-- A memory: address and byte pairs, addresses strictly rising (`Memory.wf` in Machine/Memory.lean). An address that is not
listed reads as its kind of memory says: a ROM byte as $00 (log 1), a RAM byte as INIT_MEM (R1105, log 2). -/
abbrev Memory := List Host.Cell

/-! ## Processor -/

/-- The processor's registers (R101 to R119). `p` is the status word, bit 0 first: C Z I D B U V N (R110). -/
structure Regs where
  a : Byte
  x : Byte
  y : Byte
  sp : Byte
  p : Byte
  pc : Addr
  deriving DecidableEq, Repr

/-- The sprite-DMA state (R124). -/
structure Dma where
  active : Bool
  page : Byte
  offset : Byte
  align : Nat
  deriving DecidableEq, Repr

/-! ## Cartridge and mappers -/

/-- The two mappers (R12). -/
inductive Mapper | nrom | mmc1
  deriving DecidableEq, Repr

/-- The cartridge image (R260, R261), a parameter of the machine. `chr` is pattern ROM when `chrBanks` is not 0 and pattern
RAM otherwise (R232). -/
structure Cart where
  mapper : Mapper
  /-- header byte 6 bit 0: vertical mirroring (R233) -/
  vertical : Bool
  /-- header byte 6 bit 1: no effect inside the CORE (R263) -/
  battery : Bool
  /-- count of 16 KiB program banks -/
  prgBanks : Nat
  /-- count of 8 KiB pattern banks -/
  chrBanks : Nat
  prg : Memory
  chr : Memory
  deriving DecidableEq, Repr

/-- The serial mapper's registers (R240). -/
structure Mmc1 where
  shift : BitVec 5
  count : Nat
  control : BitVec 5
  chr0 : BitVec 5
  chr1 : BitVec 5
  prg : BitVec 5
  deriving DecidableEq, Repr

/-! ## Picture unit -/

/-- The picture unit (R903). The three status bits of R922 are `vblank`, `spriteZero` and `overflow`. -/
structure Ppu where
  ctrl : Byte
  mask : Byte
  vblank : Bool
  spriteZero : Bool
  overflow : Bool
  oamAddr : Byte
  oam : Memory
  nt : Memory
  pal : Memory
  v : BitVec 15
  t : BitVec 15
  x : BitVec 3
  w : Bool
  readBuffer : Byte
  ntLatch : Byte
  atLatch : Byte
  ptLo : Byte
  ptHi : Byte
  bgLo : BitVec 16
  bgHi : BitVec 16
  atLo : BitVec 16
  atHi : BitVec 16
  dot : Nat
  scanline : Nat
  nmiRequest : Bool
  deriving DecidableEq, Repr

/-! ## Sound unit -/

/-- An envelope unit (R1000, R1021). -/
structure Envelope where
  start : Bool
  div : BitVec 4
  decay : BitVec 4
  deriving DecidableEq, Repr

/-- A pulse channel (R1000). -/
structure Pulse where
  enabled : Bool
  duty : BitVec 2
  halt : Bool
  constVol : Bool
  vol : BitVec 4
  swEnable : Bool
  swPeriod : BitVec 3
  swNegate : Bool
  swShift : BitVec 3
  swDiv : BitVec 3
  swReload : Bool
  period : BitVec 11
  timer : BitVec 11
  step : BitVec 3
  length : BitVec 8
  env : Envelope
  deriving DecidableEq, Repr

/-- The triangle channel (R1000). `control` is also the length halt. -/
structure Triangle where
  enabled : Bool
  control : Bool
  linReloadVal : BitVec 7
  linCounter : BitVec 7
  linReload : Bool
  period : BitVec 11
  timer : BitVec 11
  step : BitVec 5
  length : BitVec 8
  deriving DecidableEq, Repr

/-- The noise channel (R1000). -/
structure Noise where
  enabled : Bool
  halt : Bool
  constVol : Bool
  vol : BitVec 4
  mode : Bool
  periodIdx : BitVec 4
  timer : BitVec 12
  lfsr : BitVec 15
  length : BitVec 8
  env : Envelope
  deriving DecidableEq, Repr

/-- The delta-modulation channel (R1000, R1048). -/
structure Dmc where
  enabled : Bool
  irqEnable : Bool
  loop : Bool
  rateIdx : BitVec 4
  timer : BitVec 9
  level : BitVec 7
  sampleAddr : Addr
  sampleLen : BitVec 12
  curAddr : Addr
  bytesLeft : BitVec 12
  buffer : Byte
  bufferFull : Bool
  shift : Byte
  bitsLeft : BitVec 4
  silence : Bool
  deriving DecidableEq, Repr

/-- The frame sequencer (R1000, R1060 to R1064). `mode` is `fsMode`: false 4-step, true 5-step. -/
structure FrameSeq where
  mode : Bool
  irqInhibit : Bool
  cycle : Nat
  pendingMode : Bool
  delay : Nat
  frameIrq : Bool
  deriving DecidableEq, Repr

/-- A real number the mixer's filter holds (R1000): the coefficients, lowest power first, of the polynomial in HPF_ALPHA whose
value it is (`FilterValue.value`, Machine/Apu.lean; log 8). The last one is not 0. -/
abbrev FilterValue := List Rat

/-- The mixer's accumulators and filter (R1070 to R1072). `hpPrevIn` is a mix, which the formulas make rational. -/
structure Mixer where
  sP1 : Nat
  sP2 : Nat
  sT : Nat
  sN : Nat
  sD : Nat
  sCount : Nat
  sampleAcc : Rat
  hpPrevIn : Rat
  hpPrevOut : FilterValue
  deriving DecidableEq, Repr

/-- The sound unit (R1000). -/
structure Apu where
  p1 : Pulse
  p2 : Pulse
  tri : Triangle
  noise : Noise
  dmc : Dmc
  fs : FrameSeq
  dmcIrq : Bool
  ticks : Nat
  mix : Mixer
  deriving DecidableEq, Repr

/-! ## Controller and host -/

/-- The controller latch (R870). -/
structure Pad where
  buttons : Byte
  shift : Byte
  strobe : Bool
  deriving DecidableEq, Repr

/-- What the CORE delivers to a collaborator outside it (R970, R1072, R881). -/
inductive HostEvent
  /-- `setPixel(x, y, rgb)`, with the palette index the colour came from (R965) -/
  | setPixel (x y : Nat) (index : BitVec 6) (rgb : Rgb)
  /-- the frame-ready notification at scanline 241, dot 1 (R950) -/
  | frameReady
  /-- the frame-complete signal (R901) -/
  | frameComplete
  /-- `writeSamples(bytes)`, with the filter's output, whose clamp the bytes encode (R1072) -/
  | writeSamples (filtered : FilterValue) (bytes : List Byte)
  /-- one trace line (R881) -/
  | trace (line : List Char)
  deriving DecidableEq, Repr

/-! ## The machine -/

/-- The state of the machine. The last three fields are the model's own. -/
structure State where
  /-- R101 to R119 -/
  regs : Regs
  /-- R120 -/
  cycles : Nat
  /-- R121 -/
  irqMaskSample : Bool
  /-- R122 -/
  nmiPending : Bool
  /-- R122 -/
  nmiConsumedAhead : Bool
  /-- R123 -/
  noPollOnce : Bool
  /-- R124 -/
  dma : Dma
  /-- R125 -/
  halted : Bool
  /-- R126 -/
  refused : Bool
  /-- R127 -/
  lastSync : Nat
  /-- work RAM, R211 -/
  ram : Memory
  /-- save RAM, R216 -/
  sram : Memory
  /-- R215 -/
  openBus : Byte
  /-- R260 -/
  cart : Cart
  /-- R240 -/
  mmc1 : Mmc1
  /-- R903 -/
  ppu : Ppu
  /-- R1000 -/
  apu : Apu
  /-- R870 -/
  pad : Pad
  /-- the parameters of R15 (log 3) -/
  params : Params
  /-- how many MAGIC bytes have been drawn (log 6) -/
  draws : Nat
  /-- what the last step delivered to the host, oldest first (log 14) -/
  out : List HostEvent
  deriving DecidableEq, Repr

/-! ## Setters of the registers and of the fields nearly every instruction writes -/

namespace State

/-- `A <- v`. -/
def setA (s : State) (v : Byte) : State := { s with regs := { s.regs with a := v } }

/-- `X <- v`. -/
def setX (s : State) (v : Byte) : State := { s with regs := { s.regs with x := v } }

/-- `Y <- v`. -/
def setY (s : State) (v : Byte) : State := { s with regs := { s.regs with y := v } }

/-- `SP <- v`. -/
def setSp (s : State) (v : Byte) : State := { s with regs := { s.regs with sp := v } }

/-- `P <- v`. -/
def setP (s : State) (v : Byte) : State := { s with regs := { s.regs with p := v } }

/-- `PC <- v`. -/
def setPc (s : State) (v : Addr) : State := { s with regs := { s.regs with pc := v } }

/-- `cycles += n`. -/
def addCycles (s : State) (n : Nat) : State := { s with cycles := s.cycles + n }

/-- `openBus <- v`. -/
def setOpenBus (s : State) (v : Byte) : State := { s with openBus := v }

/-- Deliver an event to the host. -/
def emit (s : State) (e : HostEvent) : State := { s with out := s.out ++ [e] }

end State

/-- Why a machine could not be made: the load-time errors of R262 (U23). Raised only by `powerOnImage`
(Machine/PowerOn.lean); no step raises one (R22, R801). All are safe: no machine exists where the spec says none does. -/
inductive Fault
  /-- the header does not begin with N, E, S, $1A: "Malformed signature" -/
  | badSignature
  /-- "zero program-bank count" -/
  | zeroProgramBanks
  /-- a mapper ID other than 0 or 1 -/
  | unsupportedMapper
  /-- the trainer bit is set -/
  | trainerBit
  /-- the four-screen bit is set -/
  | fourScreenBit
  /-- the image is shorter than its header declares -/
  | shortImage
  /-- a mapper-0 image with more than 2 program banks or more than 1 pattern bank -/
  | oversizedMapper0
  deriving DecidableEq, Repr

/-- Why a step has no successor. -/
inductive Refusal
  /-- an instruction without a meaning in `exec`; safe -/
  | notModelled (mnemonic : String)
  /-- an OPEN opcode under EXTRA_UNOFFICIAL = refuse (R770, R780); raised by the meanings of R771 to R777; safe -/
  | openOpcode (mnemonic : String)
  /-- ARR under DECIMAL_MODE with P.D = 1, which R773 and R780 refuse; raised by the meaning of ARR; safe -/
  | arrDecimal
  /-- the run was refused before: `refused` = 1 has no successor (R126, R864); raised by the processor call; safe -/
  | runRefused
  deriving DecidableEq, Repr

/-- The outcome of a meaning and of a step. -/
abbrev Result := Host.Outcome State Fault Refusal

/-! ## Power-on values -/

/-- MMC1 power-on values (R240). -/
def Mmc1.reset : Mmc1 := ⟨0, 0, 0x0C, 0, 0, 0⟩

/-- PPU power-on values (R906). -/
def Ppu.reset : Ppu where
  ctrl := 0
  mask := 0
  vblank := false
  spriteZero := false
  overflow := false
  oamAddr := 0
  oam := []
  nt := []
  pal := []
  v := 0
  t := 0
  x := 0
  w := false
  readBuffer := 0
  ntLatch := 0
  atLatch := 0
  ptLo := 0
  ptHi := 0
  bgLo := 0
  bgHi := 0
  atLo := 0
  atHi := 0
  dot := 0
  scanline := 0
  nmiRequest := false

/-- Envelope power-on values (R1074). -/
def Envelope.reset : Envelope := ⟨false, 0, 0⟩

/-- Pulse channel power-on values (R1074). -/
def Pulse.reset : Pulse :=
  ⟨false, 0, false, false, 0, false, 0, false, 0, 0, false, 0, 0, 0, 0, Envelope.reset⟩

/-- Triangle channel power-on values (R1074). -/
def Triangle.reset : Triangle := ⟨false, false, 0, 0, false, 0, 0, 0, 0⟩

/-- Noise channel power-on values (R1074): `lfsr` = 1. -/
def Noise.reset : Noise := ⟨false, false, false, 0, false, 0, 0, 1, 0, Envelope.reset⟩

/-- DMC power-on values (R1048). -/
def Dmc.reset : Dmc :=
  ⟨false, false, false, 0, 0, 0, 0xC000, 1, 0xC000, 0, 0, false, 0, 8, true⟩

/-- Sound unit power-on values (R1048, R1064, R1074); `fs.pendingMode` = 0 is the model's choice (DESIGN CHOICE, log 20). -/
def Apu.reset : Apu where
  p1 := Pulse.reset
  p2 := Pulse.reset
  tri := Triangle.reset
  noise := Noise.reset
  dmc := Dmc.reset
  fs := ⟨false, false, 0, false, 0, false⟩
  dmcIrq := false
  ticks := 0
  mix := ⟨0, 0, 0, 0, 0, 0, 0, 0, []⟩

/-- The cartridge of `State.reset`: mapper 0, one program bank, no pattern data, nothing loaded (DESIGN CHOICE, log 1). -/
def Cart.blank : Cart := ⟨.nrom, false, false, 1, 0, [], []⟩

/-- The power-on registers (R140) with a given entry point. -/
def Regs.reset (pc : Addr) : Regs := ⟨0, 0, 0, 0xFD, 0x24, pc⟩

/-- Every element of R1100 but PC and the open-bus latch, which the entry of R1101 or R1102 sets. -/
def State.powered (cart : Cart) (params : Params) (openBus : Byte) (pc : Addr) : State where
  regs := Regs.reset pc
  cycles := 7
  irqMaskSample := true
  nmiPending := false
  nmiConsumedAhead := false
  noPollOnce := false
  dma := ⟨false, 0, 0, 0⟩
  halted := false
  refused := false
  lastSync := 0
  ram := []
  sram := []
  openBus := openBus
  cart := cart
  mmc1 := Mmc1.reset
  ppu := Ppu.reset
  apu := Apu.reset
  pad := ⟨0, 0, false⟩
  params := params
  draws := 0
  out := []

/-- The machine right after power-on (R1100, R1101) with the blank cartridge, whose reset vector reads $0000 and leaves
$00 on the open bus; `powerOn_blank` (Laws/Step.lean) says that it is what the power-on sequence gives. -/
def State.resetWith (params : Params) : State := State.powered Cart.blank params 0 0

/-- Power-on under the spec's default parameters, EXTRA_UNOFFICIAL = refuse among them (R770, D7). -/
def State.resetDefault : State := State.resetWith Params.standard

/-- The machine right after reset; it differs from `State.resetDefault` in EXTRA_UNOFFICIAL = nmos alone (log 4). -/
def State.reset : State := State.resetWith Params.atReset

end Sys2Proof.Machine
end

