-- ==== Sys2Proof/Machine/Memory.lean ====
section
/-! DEFINITION. Memories as sorted lists of cells: reading, writing, the canonical form, and what an unlisted address reads
as. A RAM lists the bytes written since power-on, so an unlisted RAM byte is INIT_MEM (R1105, log 2); a ROM lists its bytes
that are not $00 (log 1). -/

namespace Sys2Proof.Machine

namespace Memory

/-- The byte listed at an address. -/
def read? : Memory → Nat → Option Byte
  | [], _ => none
  | (k, b) :: m, a => if k = a then some b else read? m a

/-- The memory with a byte listed at an address, in order. -/
def write : Memory → Nat → Byte → Memory
  | [], a, v => [(a, v)]
  | (k, b) :: m, a, v =>
    if a < k then (a, v) :: (k, b) :: m
    else if a = k then (a, v) :: m
    else (k, b) :: write m a v

/-- The memory with nothing listed at an address. -/
def erase : Memory → Nat → Memory
  | [], _ => []
  | (k, b) :: m, a => if k = a then m else (k, b) :: erase m a

/-- Every listed address is above `n` and they rise strictly. -/
def risesFrom : Nat → Memory → Bool
  | _, [] => true
  | n, (k, _) :: m => decide (n ≤ k) && risesFrom (k + 1) m

/-- The canonical form of a memory: addresses strictly rising. -/
def wf (m : Memory) : Bool := risesFrom 0 m

/-- The canonical form of a ROM: rising, and no listed byte is $00, which is what an unlisted ROM address reads as. -/
def romWf (m : Memory) : Bool := wf m && m.all (fun c => c.2 != 0)

/-- Put a byte into a ROM image, keeping its canonical form. -/
def romWrite (m : Memory) (a : Nat) (v : Byte) : Memory := if v = 0 then erase m a else write m a v

/-- The ROM that holds the given bytes from address `n` on. -/
def romOf : Nat → List Byte → Memory
  | _, [] => []
  | n, b :: bs => if b = 0 then romOf (n + 1) bs else (n, b) :: romOf (n + 1) bs

end Memory

/-- INIT_MEM (R1105, D22): what an unlisted address of a RAM reads as. -/
def initByte (p : Params) (k : RamKind) (a : Nat) : Byte := p.initFill.getD (Config.initMem k a)

/-- INIT_OPEN_BUS (R1105, D54): the open-bus latch before the first access. -/
def initLatch (p : Params) : Byte := p.initOpenBus.getD Config.initOpenBus

namespace State

/-- `RAM[i]` (R211). -/
def ramByte (s : State) (i : Nat) : Byte := (s.ram.read? i).getD (initByte s.params .work i)

/-- `SRAM[i]` (R216). -/
def sramByte (s : State) (i : Nat) : Byte := (s.sram.read? i).getD (initByte s.params .save i)

/-- `OAM[i]` (R903). -/
def oamByte (s : State) (i : Byte) : Byte := (s.ppu.oam.read? i.toNat).getD (initByte s.params .oam i.toNat)

/-- `NT[i]` (R903). -/
def ntByte (s : State) (i : Nat) : Byte := (s.ppu.nt.read? i).getD (initByte s.params .nametable i)

/-- `PAL[i]` (R913): six bits wide (D63), the contents at power-on too. -/
def palByte (s : State) (i : Nat) : Byte := (s.ppu.pal.read? i).getD (initByte s.params .palette i) &&& 0x3F

/-- `PRG[i]` (R217). -/
def prgByte (s : State) (i : Nat) : Byte := (s.cart.prg.read? i).getD 0

/-- `CHR[i]` (R232): pattern ROM, or pattern RAM when the image has no pattern data. -/
def chrByte (s : State) (i : Nat) : Byte :=
  (s.cart.chr.read? i).getD (if s.cart.chrBanks = 0 then initByte s.params .pattern i else 0)

/-- `RAM[i] <- v` (R221). -/
def setRam (s : State) (i : Nat) (v : Byte) : State := { s with ram := s.ram.write i v }

/-- `SRAM[i] <- v` (R225). -/
def setSram (s : State) (i : Nat) (v : Byte) : State := { s with sram := s.sram.write i v }

/-- `OAM[i] <- v` (R925). -/
def setOam (s : State) (i : Byte) (v : Byte) : State :=
  { s with ppu := { s.ppu with oam := s.ppu.oam.write i.toNat v } }

/-- `NT[i] <- v` (R912). -/
def setNt (s : State) (i : Nat) (v : Byte) : State := { s with ppu := { s.ppu with nt := s.ppu.nt.write i v } }

/-- `PAL[i] <- v & 0x3F` (R913). -/
def setPal (s : State) (i : Nat) (v : Byte) : State :=
  { s with ppu := { s.ppu with pal := s.ppu.pal.write i (v &&& 0x3F) } }

/-- A pattern write (R232, R911): it changes pattern RAM and is ignored for pattern ROM. -/
def setChr (s : State) (i : Nat) (v : Byte) : State :=
  if s.cart.chrBanks = 0 then { s with cart := { s.cart with chr := s.cart.chr.write i v } } else s

end State

end Sys2Proof.Machine
end

