-- ==== Sys2Proof/Machine/Apu.lean ====
section
/-! DEFINITION. The sound unit (62_apu.md) but for its DMC memory reader, which needs the CPU bus (Machine/Clock.lean): register
writes, the channels' timers and outputs, the frame sequencer and the mixer. -/

namespace Sys2Proof.Machine

/-! ## Lookup tables -/

/-- LENGTH (R1050). -/
def lengthTable : List (BitVec 8) :=
  [10, 254, 20, 2, 40, 4, 80, 6, 160, 8, 60, 10, 14, 12, 26, 14,
   12, 16, 24, 18, 48, 20, 96, 22, 192, 24, 72, 26, 16, 28, 32, 30]

/-- `LENGTH[b[7:3]]` of a register value (R1011 to R1013). -/
def lengthOf (b : Byte) : BitVec 8 := lengthTable.getD (b.toNat / 8) 0

/-- DUTY (R1020). -/
def dutyTable : List (List Bool) :=
  [[false, true, false, false, false, false, false, false],
   [false, true, true, false, false, false, false, false],
   [false, true, true, true, true, false, false, false],
   [true, false, false, true, true, true, true, true]]

/-- TRI (R1030). -/
def triTable : List Nat :=
  [15, 14, 13, 12, 11, 10, 9, 8, 7, 6, 5, 4, 3, 2, 1, 0,
   0, 1, 2, 3, 4, 5, 6, 7, 8, 9, 10, 11, 12, 13, 14, 15]

/-- NOISE (R1035). -/
def noiseTable : List (BitVec 12) :=
  [4, 8, 16, 32, 64, 96, 128, 160, 202, 254, 380, 508, 762, 1016, 2034, 4068]

/-- DMC_RATE (R1043). -/
def dmcTable : List (BitVec 9) :=
  [428, 380, 340, 320, 286, 254, 226, 214, 190, 160, 142, 128, 106, 84, 72, 54]

/-! ## Register writes (R1010 to R1018, R1040 to R1042, R1061) -/

/-- Pulse registers 0 to 3 (R1011). -/
def Pulse.writeReg (c : Pulse) (r : Nat) (b : Byte) : Pulse :=
  match r with
  | 0 => { c with duty := b.extractLsb' 6 2, halt := b.getLsbD 5, constVol := b.getLsbD 4, vol := b.extractLsb' 0 4 }
  | 1 =>
    { c with
      swEnable := b.getLsbD 7, swPeriod := b.extractLsb' 4 3, swNegate := b.getLsbD 3, swShift := b.extractLsb' 0 3,
      swReload := true }
  | 2 => { c with period := (c.period &&& 0x700) ||| b.setWidth 11 }
  | 3 =>
    { c with
      period := (c.period &&& 0x0FF) ||| ((b &&& 0x07).setWidth 11 <<< 8)
      length := if c.enabled then lengthOf b else c.length
      step := 0
      env := { c.env with start := true } }
  | _ => c

/-- Triangle registers $4008 to $400B (R1012). -/
def Triangle.writeReg (c : Triangle) (r : Nat) (b : Byte) : Triangle :=
  match r with
  | 0 => { c with control := b.getLsbD 7, linReloadVal := b.extractLsb' 0 7 }
  | 2 => { c with period := (c.period &&& 0x700) ||| b.setWidth 11 }
  | 3 =>
    { c with
      period := (c.period &&& 0x0FF) ||| ((b &&& 0x07).setWidth 11 <<< 8)
      length := if c.enabled then lengthOf b else c.length
      linReload := true }
  | _ => c

/-- Noise registers $400C to $400F (R1013). -/
def Noise.writeReg (c : Noise) (r : Nat) (b : Byte) : Noise :=
  match r with
  | 0 => { c with halt := b.getLsbD 5, constVol := b.getLsbD 4, vol := b.extractLsb' 0 4 }
  | 2 => { c with mode := b.getLsbD 7, periodIdx := b.extractLsb' 0 4 }
  | 3 => { c with length := if c.enabled then lengthOf b else c.length, env := { c.env with start := true } }
  | _ => c

/-- `D.sampleAddr` of a $4012 value (R1042). -/
def dmcSampleAddr (b : Byte) : Addr := 0xC000 + (b.setWidth 16 <<< 6)

/-- `D.sampleLen` of a $4013 value (R1042). -/
def dmcSampleLen (b : Byte) : BitVec 12 := (b.setWidth 12 <<< 4) + 1

/-- DMC registers $4010 to $4013 (R1040 to R1042), with the interrupt flag $4010 may clear. -/
def Apu.writeDmc (a : Apu) (r : Nat) (b : Byte) : Apu :=
  match r with
  | 0 =>
    { a with
      dmc := { a.dmc with irqEnable := b.getLsbD 7, loop := b.getLsbD 6, rateIdx := b.extractLsb' 0 4 }
      dmcIrq := a.dmcIrq && b.getLsbD 7 }
  | 1 => { a with dmc := { a.dmc with level := b.extractLsb' 0 7 } }
  | 2 => { a with dmc := { a.dmc with sampleAddr := dmcSampleAddr b } }
  | 3 => { a with dmc := { a.dmc with sampleLen := dmcSampleLen b } }
  | _ => a

/-- A channel's length after its enable bit is written (R1018). -/
def enabledLength (on : Bool) (len : BitVec 8) : BitVec 8 := if on then len else 0

/-- The DMC's part of a $4015 write (R1018). -/
def Dmc.enable (d : Dmc) (on : Bool) : Dmc :=
  if !on then { d with enabled := false, bytesLeft := 0 }
  else if d.bytesLeft = 0 then { d with enabled := true, curAddr := d.sampleAddr, bytesLeft := d.sampleLen }
  else { d with enabled := true }

/-- $4015 write (R1018). -/
def Apu.writeEnables (a : Apu) (b : Byte) : Apu :=
  { a with
    p1 := { a.p1 with enabled := b.getLsbD 0, length := enabledLength (b.getLsbD 0) a.p1.length }
    p2 := { a.p2 with enabled := b.getLsbD 1, length := enabledLength (b.getLsbD 1) a.p2.length }
    tri := { a.tri with enabled := b.getLsbD 2, length := enabledLength (b.getLsbD 2) a.tri.length }
    noise := { a.noise with enabled := b.getLsbD 3, length := enabledLength (b.getLsbD 3) a.noise.length }
    dmc := a.dmc.enable (b.getLsbD 4)
    dmcIrq := false }

/-- FRAME_WRITE_DELAY (R1062, D44), by the parity of the cycle counter at the write. -/
def frameWriteDelay (p : Params) (cycles : Nat) : Nat := if cycles % 2 = 0 then p.frameDelayEven else p.frameDelayOdd

/-- $4017 write (R1061): the inhibit bit acts at once, the mode after `delay` ticks. -/
def Apu.writeFrame (a : Apu) (delay : Nat) (b : Byte) : Apu :=
  { a with
    fs := { a.fs with
      irqInhibit := b.getLsbD 6
      frameIrq := a.fs.frameIrq && !b.getLsbD 6
      pendingMode := b.getLsbD 7
      delay := delay } }

/-- A write to $4000-$4013, $4015 or $4017 (R1010); `n` is the address. -/
def Apu.writeReg (a : Apu) (p : Params) (cycles n : Nat) (b : Byte) : Apu :=
  if n < 0x4004 then { a with p1 := a.p1.writeReg (n % 4) b }
  else if n < 0x4008 then { a with p2 := a.p2.writeReg (n % 4) b }
  else if n < 0x400C then { a with tri := a.tri.writeReg (n % 4) b }
  else if n < 0x4010 then { a with noise := a.noise.writeReg (n % 4) b }
  else if n < 0x4014 then a.writeDmc (n % 4) b
  else if n = 0x4015 then a.writeEnables b
  else if n = 0x4017 then a.writeFrame (frameWriteDelay p cycles) b
  else a

/-- The value of a $4015 read (R1019), bit 5 from the open-bus latch. -/
def Apu.statusByte (a : Apu) (openBus : Byte) : Byte :=
  (if a.p1.length ≠ 0 then 0x01 else 0) ||| (if a.p2.length ≠ 0 then 0x02 else 0) |||
  (if a.tri.length ≠ 0 then 0x04 else 0) ||| (if a.noise.length ≠ 0 then 0x08 else 0) |||
  (if a.dmc.bytesLeft ≠ 0 then 0x10 else 0) ||| (openBus &&& 0x20) |||
  (if a.fs.frameIrq then 0x40 else 0) ||| (if a.dmcIrq then 0x80 else 0)

/-- The effect of a $4015 read (R1019): the frame-IRQ flag is cleared, the DMC's is not. -/
def Apu.ackFrameIrq (a : Apu) : Apu := { a with fs := { a.fs with frameIrq := false } }

/-- The IRQ line (R813). -/
def Apu.irqLine (a : Apu) : Bool := a.fs.frameIrq || a.dmcIrq

/-! ## Units clocked by the frame sequencer -/

/-- `EnvClock` (R1021). -/
def Envelope.clock (e : Envelope) (vol : BitVec 4) (loop : Bool) : Envelope :=
  if e.start then ⟨false, vol, 15⟩
  else if e.div = 0 then
    { e with div := vol, decay := if e.decay ≠ 0 then e.decay - 1 else if loop then 15 else e.decay }
  else { e with div := e.div - 1 }

/-- `Volume(c)` (R1021). -/
def Envelope.volume (e : Envelope) (constVol : Bool) (vol : BitVec 4) : Nat := if constVol then vol.toNat else e.decay.toNat

/-- A length counter's half-frame clock (R1050). -/
def lengthClock (halt : Bool) (len : BitVec 8) : BitVec 8 := if len ≠ 0 ∧ ¬ halt then len - 1 else len

/-- `Target(c)` (R1023): pulse 1 negates by ones' complement. -/
def Pulse.target (c : Pulse) (first : Bool) : Int :=
  let p : Int := c.period.toNat
  let d : Int := (c.period >>> c.swShift.toNat).toNat
  if c.swNegate then p - d - (if first then 1 else 0) else p + d

/-- `Muted(c)` (R1023). -/
def Pulse.muted (c : Pulse) (first : Bool) : Bool := decide (c.period.toNat < 8) || decide (c.target first > 0x7FF)

/-- `SweepClock(c)` (R1023). -/
def Pulse.sweepClock (c : Pulse) (first : Bool) : Pulse :=
  let c1 :=
    if c.swDiv = 0 ∧ c.swEnable ∧ c.swShift ≠ 0 ∧ ¬ c.muted first then { c with period := BitVec.ofInt 11 (c.target first) }
    else c
  if c.swDiv = 0 ∨ c.swReload then { c1 with swDiv := c.swPeriod, swReload := false } else { c1 with swDiv := c.swDiv - 1 }

/-- `LinearClock(T)` (R1032). -/
def Triangle.linearClock (c : Triangle) : Triangle :=
  { c with
    linCounter := if c.linReload then c.linReloadVal else if c.linCounter ≠ 0 then c.linCounter - 1 else c.linCounter
    linReload := c.linReload && c.control }

/-- `Quarter()` (R1060). -/
def Apu.quarter (a : Apu) : Apu :=
  { a with
    p1 := { a.p1 with env := a.p1.env.clock a.p1.vol a.p1.halt }
    p2 := { a.p2 with env := a.p2.env.clock a.p2.vol a.p2.halt }
    noise := { a.noise with env := a.noise.env.clock a.noise.vol a.noise.halt }
    tri := a.tri.linearClock }

/-- `Half()` (R1060): the length counters, then the sweeps. -/
def Apu.half (a : Apu) : Apu :=
  { a with
    p1 := { a.p1 with length := lengthClock a.p1.halt a.p1.length }.sweepClock true
    p2 := { a.p2 with length := lengthClock a.p2.halt a.p2.length }.sweepClock false
    tri := { a.tri with length := lengthClock a.tri.control a.tri.length }
    noise := { a.noise with length := lengthClock a.noise.halt a.noise.length } }

/-- `FrameIrqSet()` (R1060). -/
def Apu.frameIrqSet (a : Apu) : Apu := { a with fs := { a.fs with frameIrq := a.fs.frameIrq || !a.fs.irqInhibit } }

/-- Set the sequencer's cycle count. -/
def Apu.setFsCycle (a : Apu) (n : Nat) : Apu := { a with fs := { a.fs with cycle := n } }

/-- `FrameSequencerStep()` (R1060). -/
def Apu.frameStep (a0 : Apu) : Apu :=
  let n := a0.fs.cycle + 1
  let a := a0.setFsCycle n
  if n = 7457 ∨ n = 22371 then a.quarter
  else if n = 14913 then a.quarter.half
  else if a.fs.mode then
    if n = 37281 then a.quarter.half else if n = 37282 then a.setFsCycle 0 else a
  else if n = 29828 then a.frameIrqSet
  else if n = 29829 then a.quarter.half.frameIrqSet
  else if n = 29830 then a.frameIrqSet.setFsCycle 0
  else a

/-- `FrameWriteDelayStep()` (R1062). -/
def Apu.frameDelayStep (a : Apu) : Apu :=
  if a.fs.delay = 0 then a
  else if a.fs.delay = 1 then
    let a' := { a with fs := { a.fs with delay := 0, mode := a.fs.pendingMode, cycle := 0 } }
    if a.fs.pendingMode then a'.quarter.half else a'
  else { a with fs := { a.fs with delay := a.fs.delay - 1 } }

/-! ## Channel timers (R1002) -/

/-- Triangle timer and sequencer (R1031). -/
def Triangle.timerClock (c : Triangle) : Triangle :=
  if c.timer = 0 then
    { c with timer := c.period, step := if c.length ≠ 0 ∧ c.linCounter ≠ 0 then c.step + 1 else c.step }
  else { c with timer := c.timer - 1 }

/-- Pulse timer and sequencer (R1022): the sequence is read downwards. -/
def Pulse.timerClock (c : Pulse) : Pulse :=
  if c.timer = 0 then { c with timer := c.period, step := c.step - 1 } else { c with timer := c.timer - 1 }

/-- One step of the noise shift register (R1036). -/
def lfsrStep (mode : Bool) (r : BitVec 15) : BitVec 15 :=
  let fb := r.getLsbD 0 ^^ (if mode then r.getLsbD 6 else r.getLsbD 1)
  (r >>> 1) ||| (if fb then 0x4000 else 0)

/-- Noise timer (R1036). -/
def Noise.timerClock (c : Noise) : Noise :=
  if c.timer = 0 then { c with timer := noiseTable.getD c.periodIdx.toNat 1 - 1, lfsr := lfsrStep c.mode c.lfsr }
  else { c with timer := c.timer - 1 }

/-- The level after an output bit (R1044): it saturates. -/
def dmcLevel (bit : Bool) (l : BitVec 7) : BitVec 7 :=
  if bit then (if l.toNat ≤ 125 then l + 2 else l) else (if 2 ≤ l.toNat then l - 2 else l)

/-- `DmcOutputClock()` (R1044). -/
def Dmc.outputClock (d : Dmc) : Dmc :=
  let d1 := { d with
    level := if d.silence then d.level else dmcLevel (d.shift.getLsbD 0) d.level
    shift := d.shift >>> 1
    bitsLeft := d.bitsLeft - 1 }
  if d.bitsLeft - 1 = 0 then
    if d.bufferFull then { d1 with bitsLeft := 8, silence := false, shift := d.buffer, bufferFull := false }
    else { d1 with bitsLeft := 8, silence := true }
  else d1

/-- DMC timer (R1044). -/
def Dmc.timerClock (d : Dmc) : Dmc :=
  if d.timer = 0 then { d.outputClock with timer := dmcTable.getD d.rateIdx.toNat 1 - 1 }
  else { d with timer := d.timer - 1 }

/-- The sequencer and timer part of an APU tick (R1001), in its order. -/
def Apu.clockUnits (a0 : Apu) : Apu :=
  let a := a0.frameStep.frameDelayStep
  { a with
    tri := a.tri.timerClock
    p1 := if a.ticks % 2 = 1 then a.p1.timerClock else a.p1
    p2 := if a.ticks % 2 = 1 then a.p2.timerClock else a.p2
    noise := a.noise.timerClock
    dmc := a.dmc.timerClock }

/-! ## Outputs and mixer -/

/-- Pulse output (R1024). -/
def Pulse.output (c : Pulse) (first : Bool) : Nat :=
  if c.length = 0 ∨ c.muted first ∨ ¬ (dutyTable.getD c.duty.toNat []).getD c.step.toNat false then 0
  else c.env.volume c.constVol c.vol

/-- Triangle output (R1031). -/
def Triangle.output (c : Triangle) : Nat := triTable.getD c.step.toNat 0

/-- Noise output (R1037). -/
def Noise.output (c : Noise) : Nat := if c.length = 0 ∨ c.lfsr.getLsbD 0 then 0 else c.env.volume c.constVol c.vol

/-- `MixerAccumulate()`'s accumulation (R1070); the DMC's level always counts (R1045). -/
def Apu.accumulate (a : Apu) : Mixer :=
  { a.mix with
    sP1 := a.mix.sP1 + a.p1.output true
    sP2 := a.mix.sP2 + a.p2.output false
    sT := a.mix.sT + a.tri.output
    sN := a.mix.sN + a.noise.output
    sD := a.mix.sD + a.dmc.level.toNat
    sCount := a.mix.sCount + 1 }

/-- The pulse part of the non-linear mix (R1072). -/
def pulseMix (p1 p2 : Rat) : Rat := if p1 + p2 = 0 then 0 else (9588 / 100) / (8128 / (p1 + p2) + 100)

/-- The triangle, noise and DMC part of the non-linear mix (R1072). -/
def tndMix (t n d : Rat) : Rat :=
  let x := t / 8227 + n / 12241 + d / 22638
  if x = 0 then 0 else (15979 / 100) / (1 / x + 100)

/-- The real number a filter value stands for: its polynomial at HPF_ALPHA. -/
def FilterValue.value : FilterValue → Real
  | [] => 0
  | c :: cs => (c : Real) + Config.hpfAlpha.val * FilterValue.value cs

/-- `v + q`. -/
def FilterValue.addRat (v : FilterValue) (q : Rat) : FilterValue :=
  match v with
  | [] => if q = 0 then [] else [q]
  | c :: cs => if cs = [] ∧ c + q = 0 then [] else (c + q) :: cs

/-- `HPF_ALPHA * v`. -/
def FilterValue.timesAlpha (v : FilterValue) : FilterValue :=
  match v with
  | [] => []
  | c :: cs => 0 :: c :: cs

/-- `clamp(y, -1, 1)` (R1072). -/
def clampSample (y : Real) : Real := max (-1) (min y 1)

/-- The mix of the averages over the elapsed cycles (R1072). -/
def Mixer.level (m : Mixer) : Rat :=
  let c : Rat := m.sCount
  pulseMix (m.sP1 / c) (m.sP2 / c) + tndMix (m.sT / c) (m.sN / c) (m.sD / c)

/-- Emit one sample (R1072): the mixer with its filter advanced and its six accumulators cleared (R1071), and the filter's
output `y`. -/
def Mixer.sample (m : Mixer) : Mixer × FilterValue :=
  let y := (m.hpPrevOut.addRat (m.level - m.hpPrevIn)).timesAlpha
  ({ m with sP1 := 0, sP2 := 0, sT := 0, sN := 0, sD := 0, sCount := 0, hpPrevIn := m.level, hpPrevOut := y }, y)

/-- Sample timing (R1071), after the accumulation: the mixer, and the filter's output when a sample is due. -/
def Mixer.advance (m : Mixer) (period : Rat) : Mixer × Option FilterValue :=
  let acc := m.sampleAcc + 1
  if period ≤ acc then
    let r := { m with sampleAcc := acc - period }.sample
    (r.1, some r.2)
  else ({ m with sampleAcc := acc }, none)

namespace State

/-- Replace the sound unit. -/
def setApu (s : State) (a : Apu) : State := { s with apu := a }

/-- What a sample that is due delivers to the audio collaborator (R1072). -/
def sampleEvents : Option FilterValue → List HostEvent
  | some y => [.writeSamples y (Config.sampleFormat (clampSample y.value))]
  | none => []

/-- `MixerAccumulate()` (R1070 to R1072), with the tick count of R1001. -/
def mixerStep (s : State) : State :=
  let r := s.apu.accumulate.advance s.params.samplePeriod
  { s with apu := { s.apu with mix := r.1, ticks := s.apu.ticks + 1 }, out := s.out ++ sampleEvents r.2 }

end State

end Sys2Proof.Machine
end

