-- ==== Sys2Proof/Machine/Flags.lean ====
section
/-! DEFINITION. The status word (R110 to R119) and every flag computation: N and Z of a result, binary and decimal addition
and subtraction, comparison, shifts and rotates. Each takes the status word and gives it back. -/

namespace Sys2Proof.Machine

/-- The flags, in the order of R110. -/
inductive Flag | c | z | i | d | b | u | v | n
  deriving DecidableEq, Repr

/-- The bit of a flag (R110). -/
def Flag.bit : Flag → Nat
  | .c => 0
  | .z => 1
  | .i => 2
  | .d => 3
  | .b => 4
  | .u => 5
  | .v => 6
  | .n => 7

/-- `P.F`. -/
def flag (p : Byte) (f : Flag) : Bool := p.getLsbD f.bit

/-- `P.F <- v`. -/
def setFlag (p : Byte) (f : Flag) (v : Bool) : Byte :=
  if v then p ||| (1#8 <<< f.bit) else p &&& ~~~(1#8 <<< f.bit)

/-- `setNZ(v)` (R17). -/
def setNZ (p v : Byte) : Byte := setFlag (setFlag p .n (v.getLsbD 7)) .z (decide (v = 0))

/-- The byte pushed for P (R119): U set, B as given. -/
def pushedP (p : Byte) (brk : Bool) : Byte := if brk then p ||| 0x30 else (p ||| 0x20) &&& 0xEF

/-- A byte written into P by PLP or RTI (R119). -/
def pulledP (b : Byte) : Byte := (b &&& 0xCF) ||| 0x20

/-- `AddWithCarry(m)` (R500): the sum and the status word. -/
def addWithCarry (a m p : Byte) : Byte × Byte :=
  let sum := a.toNat + m.toNat + (flag p .c).toNat
  let r := BitVec.ofNat 8 sum
  let p1 := setFlag p .c (decide (0xFF < sum))
  let p2 := setFlag p1 .v (((a ^^^ r) &&& (m ^^^ r)).getLsbD 7)
  (r, setNZ p2 r)

/-- `ADC_decimal(m)` (R502). -/
def adcDecimal (a m p : Byte) : Byte × Byte :=
  let c := (flag p .c).toNat
  let bin := BitVec.ofNat 8 (a.toNat + m.toNat + c)
  let al0 := a.toNat % 16 + m.toNat % 16 + c
  let al := if 0x0A ≤ al0 then (al0 + 0x06) % 16 + 0x10 else al0
  let s := (a &&& 0xF0).toNat + (m &&& 0xF0).toNat + al
  let p1 := setFlag p .z (decide (bin = 0))
  let p2 := setFlag p1 .n (s.testBit 7)
  let p3 := setFlag p2 .v ((~~~(a ^^^ m) &&& (a ^^^ BitVec.ofNat 8 s)).getLsbD 7)
  let s' := if 0xA0 ≤ s then s + 0x60 else s
  (BitVec.ofNat 8 s', setFlag p3 .c (decide (0x100 ≤ s')))

/-- `SBC_decimal(m)` (R502): the flags are the binary subtraction's. -/
def sbcDecimal (a m p : Byte) : Byte × Byte :=
  let c : Int := (flag p .c).toNat
  let al0 : Int := (a.toNat % 16 : Nat) - (m.toNat % 16 : Nat) + c - 1
  let al : Int := if al0 < 0 then (al0 - 0x06) % 16 - 0x10 else al0
  let s : Int := (a &&& 0xF0).toNat - (m &&& 0xF0).toNat + al
  let s' := if s < 0 then s - 0x60 else s
  (BitVec.ofInt 8 s', (addWithCarry a (m ^^^ 0xFF) p).2)

/-- What ADC and RRA do (R505, R717): decimal only under DECIMAL_MODE with P.D set. -/
def adcResult (decimal : Bool) (a m p : Byte) : Byte × Byte :=
  if decimal && flag p .d then adcDecimal a m p else addWithCarry a m p

/-- What SBC and ISB do (R506, R713). -/
def sbcResult (decimal : Bool) (a m p : Byte) : Byte × Byte :=
  if decimal && flag p .d then sbcDecimal a m p else addWithCarry a (m ^^^ 0xFF) p

/-- `Compare(r, m)` (R501): the status word. -/
def compareP (r m p : Byte) : Byte := setNZ (setFlag p .c (decide (m.toNat ≤ r.toNat))) (r - m)

/-- BIT (R510): Z of the and, N and V of the operand. -/
def bitP (a m p : Byte) : Byte :=
  setFlag (setFlag (setFlag p .z (decide (a &&& m = 0))) .n (m.getLsbD 7)) .v (m.getLsbD 6)

/-! The modify functions of R412's `RMW`: the new byte and the status word. -/

/-- Shift left, C from bit 7 (R561, R714). -/
def shiftLeft (v p : Byte) : Byte × Byte := (v <<< 1, setFlag p .c (v.getLsbD 7))

/-- Shift right, C from bit 0 (R562, R716). -/
def shiftRight (v p : Byte) : Byte × Byte := (v >>> 1, setFlag p .c (v.getLsbD 0))

/-- Rotate left through C (R563, R715). -/
def rotateLeft (v p : Byte) : Byte × Byte :=
  ((v <<< 1) ||| (if flag p .c then 0x01 else 0), setFlag p .c (v.getLsbD 7))

/-- Rotate right through C (R564, R717). -/
def rotateRight (v p : Byte) : Byte × Byte :=
  ((v >>> 1) ||| (if flag p .c then 0x80 else 0), setFlag p .c (v.getLsbD 0))

/-- Increment, no flag (R713); INC adds N and Z (R514). -/
def increment (v p : Byte) : Byte × Byte := (v + 1, p)

/-- Decrement, no flag (R712); DEC adds N and Z (R515). -/
def decrement (v p : Byte) : Byte × Byte := (v - 1, p)

/-- A modify function followed by N and Z of its result (R514, R515, R561 to R564). -/
def withNZ (f : Byte → Byte → Byte × Byte) (v p : Byte) : Byte × Byte := ((f v p).1, setNZ (f v p).2 (f v p).1)

end Sys2Proof.Machine
end

