-- ==== Sys2Proof/Machine/Mapper.lean ====
section
/-! DEFINITION. The two mappers (R230 to R248): which program, pattern and nametable byte an address reaches, and the serial
write protocol of mapper 1. -/

namespace Sys2Proof.Machine

/-- The program banking mode of mapper 1: control bits 3..2 (R243). -/
def Mmc1.prgMode (m : Mmc1) : Nat := m.control.toNat / 4 % 4

/-- The 16 KiB bank mapper 1 puts at a program address (R244); `hiHalf` is address bit 14. -/
def Mmc1.prgBank (m : Mmc1) (n : Nat) (hiHalf : Bool) : Nat :=
  if m.prgMode ≤ 1 then ((m.prg &&& 0x0E).toNat + hiHalf.toNat) % n
  else if m.prgMode = 2 then (if hiHalf then (m.prg &&& 0x0F).toNat % n else 0)
  else (if hiHalf then n - 1 else (m.prg &&& 0x0F).toNat % n)

/-- The index into PRG of a program address `a` in $8000-$FFFF (R230, R244). -/
def State.prgIndex (s : State) (a : Nat) : Nat :=
  match s.cart.mapper with
  | .nrom => (a - 0x8000) % (16384 * s.cart.prgBanks)
  | .mmc1 => s.mmc1.prgBank s.cart.prgBanks (decide (0xC000 ≤ a)) * 16384 + a % 0x4000

/-- `MapperPrgRead(addr)` (R217, R230, R244). -/
def State.prgRead (s : State) (a : Nat) : Byte := s.prgByte (s.prgIndex a)

/-- The count of 4 KiB pattern banks (R245): 2 for pattern RAM. -/
def Cart.chrBanks4 (c : Cart) : Nat := if c.chrBanks = 0 then 2 else 2 * c.chrBanks

/-- The index into CHR of a PPU address below $2000 (R232, R245). -/
def State.chrIndex (s : State) (a : Nat) : Nat :=
  match s.cart.mapper with
  | .nrom => a
  | .mmc1 =>
    let hiHalf := decide (0x1000 ≤ a)
    let bank :=
      if s.mmc1.control.getLsbD 4 then
        (if hiHalf then s.mmc1.chr1.toNat else s.mmc1.chr0.toNat) % s.cart.chrBanks4
      else ((s.mmc1.chr0 &&& 0x1E).toNat + hiHalf.toNat) % s.cart.chrBanks4
    bank * 4096 + a % 0x1000

/-- The nametable arrangements (R912). -/
inductive Arrangement | horizontal | vertical | lower | upper
  deriving DecidableEq, Repr

/-- The arrangement in force: the header's for mapper 0 (R233), control bits 1..0 for mapper 1 (R243, R246). -/
def State.arrangement (s : State) : Arrangement :=
  match s.cart.mapper with
  | .nrom => if s.cart.vertical then .vertical else .horizontal
  | .mmc1 =>
    match s.mmc1.control.toNat % 4 with
    | 0 => .lower
    | 1 => .upper
    | 2 => .vertical
    | _ => .horizontal

/-- The index into NT of a PPU address in $2000-$3EFF (R912). -/
def State.ntIndex (s : State) (a : Nat) : Nat :=
  let n := a / 0x400 % 4
  let p := match s.arrangement with
    | .horizontal => n / 2
    | .vertical => n % 2
    | .lower => 0
    | .upper => 1
  p * 0x400 + a % 0x400

/-- One serial write to mapper 1 (R241): bit 7 resets the shift register, otherwise bit 0 enters at the top and the fifth
write latches the register that address bits 14..13 select (R242). -/
def Mmc1.serialWrite (m : Mmc1) (setsMode3 : Bool) (a : Nat) (v : Byte) : Mmc1 :=
  if v.getLsbD 7 then
    { m with shift := 0, count := 0, control := if setsMode3 then m.control ||| 0x0C else m.control }
  else
    let sh : BitVec 5 := (m.shift >>> 1) ||| (if v.getLsbD 0 then 0x10 else 0)
    if m.count + 1 = 5 then
      match a / 0x2000 % 4 with
      | 0 => { m with shift := 0, count := 0, control := sh }
      | 1 => { m with shift := 0, count := 0, chr0 := sh }
      | 2 => { m with shift := 0, count := 0, chr1 := sh }
      | _ => { m with shift := 0, count := 0, prg := sh }
    else { m with shift := sh, count := m.count + 1 }

/-- `MapperPrgWrite(addr, v)`: never changes program ROM (R226); mapper 0 ignores it (R231). -/
def State.prgWrite (s : State) (a : Nat) (v : Byte) : State :=
  match s.cart.mapper with
  | .nrom => s
  | .mmc1 => { s with mmc1 := s.mmc1.serialWrite s.params.mmc1ResetSetsMode3 a v }

end Sys2Proof.Machine
end

