-- ==== Sys2Proof/Machine/Ppu.lean ====
section
/-! DEFINITION. The picture unit (61_ppu.md): its bus, its eight registers, the dot state machine and pixel composition.
The NMI edge latch of R810, which a rising NMI request sets, stands here because both a register write and a dot raise it. -/

namespace Sys2Proof.Machine

namespace State

/-- Replace the picture unit. -/
def setPpu (s : State) (p : Ppu) : State := { s with ppu := p }

/-! ## The PPU bus (R910 to R914) -/

/-- The palette entry an address in $3F00-$3FFF reaches (R913): the sprite backdrops mirror the background ones. -/
def palIndex (a : Nat) : Nat :=
  let i := a % 0x20
  if i = 0x10 ∨ i = 0x14 ∨ i = 0x18 ∨ i = 0x1C then i - 0x10 else i

/-- `PpuRead(a)` (R910 to R913). -/
def ppuRead (s : State) (addr : Nat) : Byte :=
  let a := addr % 0x4000
  if a < 0x2000 then s.chrByte (s.chrIndex a)
  else if a < 0x3F00 then s.ntByte (s.ntIndex a)
  else s.palByte (palIndex a)

/-- `PpuWrite(a, b)` (R910 to R913). -/
def ppuWrite (s : State) (addr : Nat) (b : Byte) : State :=
  let a := addr % 0x4000
  if a < 0x2000 then s.setChr (s.chrIndex a) b
  else if a < 0x3F00 then s.setNt (s.ntIndex a) b
  else s.setPal (palIndex a) b

/-! ## The NMI request and its edge -/

/-- `OnNmiEdge()` (R810): an edge a hijack has already taken is absorbed, any other is latched. -/
def onNmiEdge (s : State) : State :=
  if s.nmiConsumedAhead then { s with nmiConsumedAhead := false } else { s with nmiPending := true }

/-- Drive the NMI-request signal; a change from 0 to 1 is an edge (R810). -/
def setNmiRequest (s : State) (r : Bool) : State :=
  let s' := s.setPpu { s.ppu with nmiRequest := r }
  if !s.ppu.nmiRequest && r then s'.onNmiEdge else s'

end State

/-! ## Registers (R920 to R929) -/

/-- The amount `v` advances by on a $2007 access (R927). -/
def Ppu.increment (p : Ppu) : BitVec 15 := if p.ctrl.getLsbD 2 then 32 else 1

/-- "Rendering enabled": either mask bit (R923). -/
def Ppu.rendering (p : Ppu) : Bool := p.mask.getLsbD 3 || p.mask.getLsbD 4

/-- The three status bits at their places (R922). -/
def Ppu.statusByte (p : Ppu) : Byte :=
  (if p.vblank then 0x80 else 0) ||| (if p.spriteZero then 0x40 else 0) ||| (if p.overflow then 0x20 else 0)

/-- The loopy address as a number. -/
def Ppu.busAddr (p : Ppu) : Nat := p.v.toNat % 0x4000

namespace State

/-- PPUSTATUS read (R922). -/
def readStatus (s : State) : Byte × State :=
  (s.ppu.statusByte ||| (s.openBus &&& 0x1F), s.setPpu { s.ppu with vblank := false, w := false })

/-- PPUDATA read (R927): buffered below $3F00, immediate in the palette, whose buffer takes the nametable byte below. -/
def readData (s : State) : Byte × State :=
  let a := s.ppu.busAddr
  let v' := s.ppu.v + s.ppu.increment
  if a < 0x3F00 then (s.ppu.readBuffer, s.setPpu { s.ppu with readBuffer := s.ppuRead a, v := v' })
  else (s.ppuRead a, s.setPpu { s.ppu with readBuffer := s.ppuRead (a - 0x1000), v := v' })

/-- `PpuRegRead(r)` (R920): write-only registers return the open-bus latch (R929). -/
def ppuRegRead (s : State) (r : Nat) : Byte × State :=
  match r with
  | 2 => s.readStatus
  | 4 => (s.oamByte s.ppu.oamAddr, s)
  | 7 => s.readData
  | _ => (s.openBus, s)

/-- PPUCTRL write (R921). -/
def writeCtrl (s : State) (b : Byte) : State :=
  let t' := (s.ppu.t &&& ~~~0x0C00#15) ||| ((b &&& 0x03).setWidth 15 <<< 10)
  let s' := s.setPpu { s.ppu with ctrl := b, t := t' }
  if s.params.nmiOnEnable then s'.setNmiRequest (b.getLsbD 7 && s.ppu.vblank) else s'

/-- PPUSCROLL write (R926). -/
def writeScroll (s : State) (b : Byte) : State :=
  let w15 : BitVec 15 := b.setWidth 15
  if s.ppu.w then
    s.setPpu { s.ppu with
      t := (s.ppu.t &&& ~~~0x73E0#15) ||| ((w15 &&& 0x07) <<< 12) ||| ((w15 &&& 0xF8) <<< 2), w := false }
  else
    s.setPpu { s.ppu with
      t := (s.ppu.t &&& ~~~0x001F#15) ||| (w15 >>> 3), x := b.extractLsb' 0 3, w := true }

/-- PPUADDR write (R928). -/
def writeAddr (s : State) (b : Byte) : State :=
  let w15 : BitVec 15 := b.setWidth 15
  if s.ppu.w then
    let t' := (s.ppu.t &&& 0x7F00) ||| w15
    s.setPpu { s.ppu with t := t', v := t', w := false }
  else s.setPpu { s.ppu with t := (s.ppu.t &&& 0x00FF) ||| ((w15 &&& 0x3F) <<< 8), w := true }

/-- OAMDATA write (R925). -/
def writeOam (s : State) (b : Byte) : State :=
  let s' := s.setOam s.ppu.oamAddr b
  s'.setPpu { s'.ppu with oamAddr := s.ppu.oamAddr + 1 }

/-- PPUDATA write (R927). -/
def writeData (s : State) (b : Byte) : State :=
  let s' := s.ppuWrite s.ppu.busAddr b
  s'.setPpu { s'.ppu with v := s.ppu.v + s.ppu.increment }

/-- `PpuRegWrite(r, b)` (R920); register 2 ignores writes (R929). -/
def ppuRegWrite (s : State) (r : Nat) (b : Byte) : State :=
  match r with
  | 0 => s.writeCtrl b
  | 1 => s.setPpu { s.ppu with mask := b }
  | 3 => s.setPpu { s.ppu with oamAddr := b }
  | 4 => s.writeOam b
  | 5 => s.writeScroll b
  | 6 => s.writeAddr b
  | 7 => s.writeData b
  | _ => s

end State

/-! ## Scroll arithmetic (R934 to R937) -/

/-- `IncCoarseX` (R934). -/
def incCoarseX (v : BitVec 15) : BitVec 15 :=
  if v &&& 0x001F = 31 then (v &&& ~~~0x001F#15) ^^^ 0x0400 else v + 1

/-- `IncY` (R935). -/
def incY (v : BitVec 15) : BitVec 15 :=
  if v &&& 0x7000 ≠ 0x7000 then v + 0x1000
  else
    let v0 := v &&& ~~~0x7000#15
    let cy := (v0 >>> 5) &&& 0x1F
    if cy = 29 then (v0 ^^^ 0x0800) &&& ~~~0x03E0#15
    else if cy = 31 then v0 &&& ~~~0x03E0#15
    else (v0 &&& ~~~0x03E0#15) ||| ((cy + 1) <<< 5)

/-- `CopyX` (R936). -/
def copyX (v t : BitVec 15) : BitVec 15 := (v &&& ~~~0x041F#15) ||| (t &&& 0x041F)

/-- `CopyY` (R937). -/
def copyY (v t : BitVec 15) : BitVec 15 := (v &&& ~~~0x7BE0#15) ||| (t &&& 0x7BE0)

/-! ## Background fetches (R931 to R933) -/

/-- `Shift()` (R931). -/
def Ppu.shiftAll (p : Ppu) : Ppu :=
  { p with bgLo := p.bgLo <<< 1, bgHi := p.bgHi <<< 1, atLo := p.atLo <<< 1, atHi := p.atHi <<< 1 }

/-- `LoadShifters()` (R931). -/
def Ppu.loadShifters (p : Ppu) : Ppu :=
  { p with
    bgLo := (p.bgLo &&& 0xFF00) ||| p.ptLo.setWidth 16
    bgHi := (p.bgHi &&& 0xFF00) ||| p.ptHi.setWidth 16
    atLo := (p.atLo &&& 0xFF00) ||| (if p.atLatch.getLsbD 0 then 0x00FF else 0)
    atHi := (p.atHi &&& 0xFF00) ||| (if p.atLatch.getLsbD 1 then 0x00FF else 0) }

/-- The nametable byte's address (R931). -/
def Ppu.ntAddr (p : Ppu) : Nat := (0x2000#15 ||| (p.v &&& 0x0FFF)).toNat

/-- The attribute byte's address (R932). -/
def attributeAddr (v : BitVec 15) : Nat :=
  (0x23C0#15 ||| (v &&& 0x0C00) ||| ((v >>> 4) &&& 0x38) ||| ((v >>> 2) &&& 0x07)).toNat

/-- The quadrant of an attribute byte (R932). -/
def attributeQuadrant (v : BitVec 15) (b : Byte) : Byte :=
  let b1 := if v.getLsbD 6 then b >>> 4 else b
  let b2 := if v.getLsbD 1 then b1 >>> 2 else b1
  b2 &&& 0x03

/-- `PatternAddr()` (R933). -/
def Ppu.patternAddr (p : Ppu) : Nat :=
  (if p.ctrl.getLsbD 4 then 0x1000 else 0) + p.ntLatch.toNat * 16 + p.v.toNat / 0x1000

namespace State

/-- The fetch of R930's `case (d - 1) mod 8`, after the shift. -/
def fetchStep (s : State) (k : Nat) : State :=
  match k with
  | 0 => s.setPpu { s.ppu.loadShifters with ntLatch := s.ppuRead s.ppu.ntAddr }
  | 2 => s.setPpu { s.ppu with atLatch := attributeQuadrant s.ppu.v (s.ppuRead (attributeAddr s.ppu.v)) }
  | 4 => s.setPpu { s.ppu with ptLo := s.ppuRead s.ppu.patternAddr }
  | 6 => s.setPpu { s.ppu with ptHi := s.ppuRead (s.ppu.patternAddr + 8) }
  | 7 => s.setPpu { s.ppu with v := incCoarseX s.ppu.v }
  | _ => s

/-- The background part of a dot (R930, R931, R935 to R937), on a rendering scanline with rendering enabled. -/
def background (s : State) (sl d : Nat) : State :=
  let s1 := if (2 ≤ d ∧ d ≤ 257) ∨ (321 ≤ d ∧ d ≤ 337) then (s.setPpu s.ppu.shiftAll).fetchStep ((d - 1) % 8) else s
  let s2 := if d = 256 then s1.setPpu { s1.ppu with v := incY s1.ppu.v } else s1
  let s3 := if d = 257 then s2.setPpu { s2.ppu with v := copyX s2.ppu.v s2.ppu.t } else s2
  if sl = 261 ∧ 280 ≤ d ∧ d ≤ 304 then s3.setPpu { s3.ppu with v := copyY s3.ppu.v s3.ppu.t } else s3

/-! ## Pixel composition (R960 to R965) -/

/-- `BackgroundPixel(px)` (R961): pattern bits and palette; zero pattern bits are transparent. -/
def backgroundPixel (s : State) (px : Nat) : Nat × Nat :=
  let p := s.ppu
  if !p.mask.getLsbD 3 || (s.params.clipLeft && !p.mask.getLsbD 1 && decide (px < 8)) then (0, 0)
  else
    let k := 15 - p.x.toNat
    ((p.bgHi.getLsbD k).toNat * 2 + (p.bgLo.getLsbD k).toNat, (p.atHi.getLsbD k).toNat * 2 + (p.atLo.getLsbD k).toNat)

end State

/-- A sprite's opaque pixel (R962). -/
structure SpriteDot where
  pattern : Nat
  palette : Nat
  behind : Bool
  zero : Bool
  deriving DecidableEq, Repr

/-- The pattern address of a sprite row (R962). -/
def spriteAddr (tall table1 : Bool) (tile : Byte) (row : Nat) : Nat :=
  if tall then
    (tile &&& 1).toNat * 0x1000 + (tile &&& 0xFE).toNat * 16 + (if 8 ≤ row then 16 else 0) + row % 8
  else (if table1 then 0x1000 else 0) + tile.toNat * 16 + row

namespace State

/-- The pixel of OAM entry `i` at a position, when its box holds the position and its pattern bit is not 0 (R962). -/
def spriteAt (s : State) (px py i : Nat) : Option SpriteDot :=
  let e := BitVec.ofNat 8 (4 * i)
  let sy := (s.oamByte e).toNat + s.params.spriteYOffset
  let tile := s.oamByte (e + 1)
  let att := s.oamByte (e + 2)
  let sx := (s.oamByte (e + 3)).toNat
  let tall := s.ppu.ctrl.getLsbD 5
  let h := if tall then 16 else 8
  if sy ≤ py ∧ py < sy + h ∧ sx ≤ px ∧ px < sx + 8 then
    let row := if att.getLsbD 7 then h - 1 - (py - sy) else py - sy
    let col := if att.getLsbD 6 then 7 - (px - sx) else px - sx
    let a := spriteAddr tall (s.ppu.ctrl.getLsbD 3) tile row
    let pat := ((s.ppuRead (a + 8)).getLsbD (7 - col)).toNat * 2 + ((s.ppuRead a).getLsbD (7 - col)).toNat
    if pat = 0 then none else some ⟨pat, 4 + (att &&& 3).toNat, att.getLsbD 5, i == 0⟩
  else none

/-- `SpritePixel(px, py)` (R962, R963): the first entry in index order with an opaque pixel. -/
def spritePixel (s : State) (px py : Nat) : Option SpriteDot :=
  if !s.ppu.mask.getLsbD 4 || (s.params.clipLeft && !s.ppu.mask.getLsbD 2 && decide (px < 8)) then none
  else (List.range 64).findSome? (s.spriteAt px py)

/-- The palette address a pixel resolves to (R960). -/
def pixelAddr (bg : Nat × Nat) (sp : Option SpriteDot) : Nat :=
  match sp with
  | none => if bg.1 = 0 then 0x3F00 else 0x3F00 + bg.2 * 4 + bg.1
  | some d =>
    if bg.1 = 0 ∨ !d.behind then 0x3F00 + d.palette * 4 + d.pattern else 0x3F00 + bg.2 * 4 + bg.1

/-- Whether a pixel sets sprite-zero hit (R960, R964). -/
def hitsSpriteZero (s : State) (bg : Nat × Nat) (sp : Option SpriteDot) (px : Nat) : Bool :=
  decide (bg.1 ≠ 0) && (sp.map (·.zero)).getD false && s.ppu.mask.getLsbD 3 && s.ppu.mask.getLsbD 4 && decide (px ≠ 255)

/-- `EmitPixel(px, py)` (R960, R965). -/
def emitPixel (s : State) (px py : Nat) : State :=
  let bg := s.backgroundPixel px
  let sp := s.spritePixel px py
  let idx := (s.ppuRead (pixelAddr bg sp)).setWidth 6
  (s.setPpu { s.ppu with spriteZero := s.ppu.spriteZero || s.hitsSpriteZero bg sp px }).emit
    (.setPixel px py idx (Config.rgbPalette idx))

/-! ## One dot (R930) -/

/-- Pre-render clear: scanline 261, dot 1 (R951), 6820 dots after `vblankStart` (DEDUCED, log 25, where R952 counts 6821). -/
def preRender (s : State) (sl d : Nat) : State :=
  if sl = 261 ∧ d = 1 then
    (s.setPpu { s.ppu with vblank := false, spriteZero := false, overflow := false }).setNmiRequest false
  else s

/-- The background part, when the scanline renders and rendering is enabled (R930, D37). -/
def renderBackground (s : State) (sl d : Nat) (render : Bool) : State :=
  if (sl ≤ 239 ∨ sl = 261) ∧ render then s.background sl d else s

/-- Vertical blank begins: scanline 241, dot 1 (R950). -/
def vblankStart (s : State) (sl d : Nat) : State :=
  if sl = 241 ∧ d = 1 then
    let s1 := s.setPpu { s.ppu with vblank := true }
    (if s1.ppu.ctrl.getLsbD 7 then s1.setNmiRequest true else s1).emit .frameReady
  else s

/-- The pixel of dots 1 to 256 of a visible scanline (R960). -/
def renderPixel (s : State) (sl d : Nat) : State :=
  if sl ≤ 239 ∧ 1 ≤ d ∧ d ≤ 256 then s.emitPixel (d - 1) sl else s

/-- Advance the position (R901, R930). -/
def advanceDot (s : State) (sl d : Nat) : State :=
  if d + 1 = 341 then
    if sl + 1 = 262 then (s.setPpu { s.ppu with dot := 0, scanline := 0 }).emit .frameComplete
    else s.setPpu { s.ppu with dot := 0, scanline := sl + 1 }
  else s.setPpu { s.ppu with dot := d + 1 }

/-- `PpuTick()` (R900, R930): exactly one dot, the steps in the order of D64. -/
def ppuTick (s : State) : State :=
  let sl := s.ppu.scanline
  let d := s.ppu.dot
  let render := s.ppu.rendering
  ((((s.preRender sl d).renderBackground sl d render).vblankStart sl d).renderPixel sl d).advanceDot sl d

/-- `NmiEdgeWithin(n)` (R824): NMI-on-vblank is enabled, the request is low, and scanline 241, dot 1 is among the next
`3 * n` dots. -/
def nmiEdgeWithin (s : State) (n : Nat) : Bool :=
  s.ppu.ctrl.getLsbD 7 && !s.ppu.nmiRequest &&
    decide ((241 * 341 + 1 + 89342 - (s.ppu.scanline * 341 + s.ppu.dot)) % 89342 < 3 * n)

end State

end Sys2Proof.Machine
end

