-- ==== Sys2Proof/Machine/Ops.lean ====
section
/-! DEFINITION. The CPU bus (R210 to R226), the controller and I/O window, Peek, operand fetch, the stack, and taking an
exception with the return from one (R800 to R830). -/

namespace Sys2Proof.Machine
namespace State

/-! ## Controller (R870 to R873) -/

/-- `HighBits()` (R871). -/
def padHighBits (s : State) : Byte :=
  match s.params.controllerHighBits with
  | .openBus => s.openBus &&& 0xE0
  | .zero => 0

/-- Reload the latch from the host (R870, R873). -/
def reloadPad (s : State) : State :=
  { s with pad := { s.pad with buttons := Config.hostButtons s.cycles, shift := Config.hostButtons s.cycles } }

/-- $4016 write (R870): reload while the strobe is high and at its fall. -/
def writeStrobe (s : State) (v : Byte) : State :=
  let s' := { s with pad := { s.pad with strobe := v.getLsbD 0 } }
  if v.getLsbD 0 || s.pad.strobe then s'.reloadPad else s'

/-- Bit 0 of a port-1 read. -/
def bitByte (b : Bool) : Byte := if b then 0x01 else 0

/-- $4016 read (R871). -/
def readPad1 (s : State) : Byte × State :=
  if s.pad.strobe then (s.padHighBits ||| bitByte ((Config.hostButtons s.cycles).getLsbD 0), s.reloadPad)
  else
    (s.padHighBits ||| bitByte (s.pad.shift.getLsbD 0),
     { s with pad := { s.pad with shift := (s.pad.shift >>> 1) ||| 0x80 } })

/-- $4017 read (R872): no second controller. -/
def readPad2 (s : State) : Byte × State := (s.padHighBits, s)

/-! ## The I/O window (R213, R223) -/

/-- $4014 write: start a sprite DMA (R840). -/
def startDma (s : State) (v : Byte) : State := { s with dma := ⟨true, v, 0, 1 + s.cycles % 2⟩ }

/-- `IoRead(addr)` for $4000-$4017 (R213). -/
def ioRead (s : State) (n : Nat) : Byte × State :=
  if n = 0x4015 then (s.apu.statusByte s.openBus, s.setApu s.apu.ackFrameIrq)
  else if n = 0x4016 then s.readPad1
  else if n = 0x4017 then s.readPad2
  else (s.openBus, s)

/-- `IoWrite(addr, v)` for $4000-$4017 (R223). -/
def ioWrite (s : State) (n : Nat) (v : Byte) : State :=
  if n = 0x4014 then s.startDma v
  else if n = 0x4016 then s.writeStrobe v
  else s.setApu (s.apu.writeReg s.params s.cycles n v)

/-! ## The CPU bus -/

/-- The address decoder on a read (R210), before the open-bus latch takes the value. -/
def busRead (s : State) (a : Addr) : Byte × State :=
  if a.toNat ≤ 0x1FFF then (s.ramByte (a.toNat % 0x800), s)
  else if a.toNat ≤ 0x3FFF then s.ppuRegRead (a.toNat % 8)
  else if a.toNat ≤ 0x4017 then s.ioRead a.toNat
  else if a.toNat ≤ 0x5FFF then (s.openBus, s)
  else if a.toNat ≤ 0x7FFF then (s.sramByte (a.toNat - 0x6000), s)
  else (s.prgRead a.toNat, s)

/-- `MemRead(addr, 1)` (R210, R215). -/
def memRead (s : State) (a : Addr) : Byte × State :=
  let r := s.busRead a
  (r.1, r.2.setOpenBus r.1)

/-- The address decoder on a write (R220). -/
def busWrite (s : State) (a : Addr) (v : Byte) : State :=
  if a.toNat ≤ 0x1FFF then s.setRam (a.toNat % 0x800) v
  else if a.toNat ≤ 0x3FFF then s.ppuRegWrite (a.toNat % 8) v
  else if a.toNat ≤ 0x4017 then s.ioWrite a.toNat v
  else if a.toNat ≤ 0x5FFF then s
  else if a.toNat ≤ 0x7FFF then s.setSram (a.toNat - 0x6000) v
  else s.prgWrite a.toNat v

/-- `MemWrite(addr, 1, v)` (R220, R215). -/
def memWrite (s : State) (a : Addr) (v : Byte) : State := (s.setOpenBus v).busWrite a v

/-- The second write of one read-modify-write instruction: under MMC1_CONSECUTIVE_FILTER mapper 1 drops it (R248); the
open-bus latch still takes it (log 13). -/
def memWriteSecond (s : State) (a : Addr) (v : Byte) : State :=
  if s.params.mmc1ConsecutiveFilter ∧ s.cart.mapper = .mmc1 ∧ 0x8000 ≤ a.toNat then s.setOpenBus v else s.memWrite a v

/-- `Peek(addr)` (R880): the stored byte with no side effect; $FF in the register ranges, open bus in the expansion area. -/
def peek (s : State) (a : Addr) : Byte :=
  if a.toNat ≤ 0x1FFF then s.ramByte (a.toNat % 0x800)
  else if a.toNat ≤ 0x401F then 0xFF
  else if a.toNat ≤ 0x5FFF then s.openBus
  else if a.toNat ≤ 0x7FFF then s.sramByte (a.toNat - 0x6000)
  else s.prgRead a.toNat

/-- `Read16(addr)` (R18): low byte first. -/
def read16 (s : State) (a : Addr) : Addr × State :=
  let lo := s.memRead a
  let hi := lo.2.memRead (a + 1)
  (join hi.1 lo.1, hi.2)

/-- `FetchByte()` (R400). -/
def fetchByte (s : State) : Byte × State :=
  let r := s.memRead s.regs.pc
  (r.1, r.2.setPc (s.regs.pc + 1))

/-! ## Stack (R430, R431) -/

/-- The address a stack pointer names: `0x0100 | SP`. -/
def stackAddr (sp : Byte) : Addr := join 0x01 sp

/-- `Push(v)`. -/
def push (s : State) (v : Byte) : State := (s.memWrite (stackAddr s.regs.sp) v).setSp (s.regs.sp - 1)

/-- `Pull()`. -/
def pull (s : State) : Byte × State := (s.setSp (s.regs.sp + 1)).memRead (stackAddr (s.regs.sp + 1))

/-- A 16-bit push: high byte first (R430). -/
def pushWord (s : State) (w : Addr) : State := (s.push (hiByte w)).push (loByte w)

/-- A 16-bit pull: low byte first (R430). -/
def pullWord (s : State) : Addr × State :=
  let lo := s.pull
  let hi := lo.2.pull
  (join hi.1 lo.1, hi.2)

end State

/-! ## Exceptions -/

/-- The events that enter a handler (R800). -/
inductive ExcKind | nmi | irq | brk
  deriving DecidableEq, Repr

/-- The NMI vector (R202). -/
def nmiVector : Addr := 0xFFFA

/-- The reset vector (R202). -/
def resetVector : Addr := 0xFFFC

/-- The IRQ/BRK vector (R202). -/
def irqVector : Addr := 0xFFFE

namespace State

/-- `SelectVector()` (R821): an NMI that is asserted (R823) or will assert within the window (R824) takes the vector over. -/
def selectVector (s : State) : Addr × State :=
  if s.nmiPending then (nmiVector, { s with nmiPending := false })
  else if s.nmiEdgeWithin s.params.hijackWindow then (nmiVector, { s with nmiConsumedAhead := true })
  else (irqVector, s)

/-- The vector of an event: fixed for an NMI, selected for an IRQ or BRK (R820, R640). -/
def vectorOf (k : ExcKind) (s : State) : Addr × State :=
  match k with
  | .nmi => (nmiVector, s)
  | .irq | .brk => s.selectVector

/-- Save PC and P on the stack and mask IRQ (R820, R640): the pushed status has B set for BRK alone (R119). -/
def saveFrame (k : ExcKind) (s : State) : State :=
  let s1 := (s.pushWord s.regs.pc).push (pushedP s.regs.p (k == .brk))
  s1.setP (setFlag s1.regs.p .i true)

/-- TAKING AN EXCEPTION: the sequence that NMI and IRQ share (R820) and that BRK's effect shares with them (R640). PC holds
the address to return to. The 7 cycles of an NMI or IRQ are added here; BRK's are its base cost. -/
def takeException (k : ExcKind) (s : State) : State :=
  let s0 := match k with
    | .nmi => { s with nmiPending := false }
    | .irq | .brk => s
  let v := vectorOf k (s0.saveFrame k)
  let t := v.2.read16 v.1
  { (t.2.setPc t.1).addCycles (match k with | .brk => 0 | .nmi | .irq => 7) with noPollOnce := true }

/-- THE RETURN from an exception (R630, R830): P with B 0 and U 1, then PC, nothing added. -/
def returnFromException (s : State) : State :=
  let b := s.pull
  let pc := (b.2.setP (pulledP b.1)).pullWord
  pc.2.setPc pc.1

/-- A JAM opcode's effect (R750, R850): the processor parks. -/
def halt (s : State) : State := { s with halted := true }

end State

end Sys2Proof.Machine
end

