-- ==== Sys2Proof/Machine/Clock.lean ====
section
/-! DEFINITION. The shared clock (R860): the DMC's memory reader, one APU tick, one replayed CPU cycle, and the catch-up. -/

namespace Sys2Proof.Machine

/-- The address after a DMC sample byte (R1046): it wraps into program space. -/
def dmcNextAddr (a : Addr) : Addr := if a = 0xFFFF then 0x8000 else a + 1

/-- The DMC after it has taken a sample byte (R1046). -/
def Dmc.take (d : Dmc) (b : Byte) : Dmc :=
  let d1 := { d with buffer := b, bufferFull := true, curAddr := dmcNextAddr d.curAddr, bytesLeft := d.bytesLeft - 1 }
  if d.bytesLeft - 1 = 0 ∧ d.loop then { d1 with curAddr := d.sampleAddr, bytesLeft := d.sampleLen } else d1

/-- Whether taking a sample byte raises the DMC interrupt (R1046, R1047). -/
def Dmc.raisesIrq (d : Dmc) : Bool := decide (d.bytesLeft - 1 = 0) && !d.loop && d.irqEnable

namespace State

/-- `DmcReader()` (R1046): a CPU-bus read that steals no cycle. -/
def dmcReader (s : State) : State :=
  if s.apu.dmc.bufferFull ∨ s.apu.dmc.bytesLeft = 0 then s
  else
    let r := s.memRead s.apu.dmc.curAddr
    r.2.setApu { r.2.apu with dmc := r.2.apu.dmc.take r.1, dmcIrq := r.2.apu.dmcIrq || r.2.apu.dmc.raisesIrq }

/-- `ApuTick()` (R1001). -/
def apuTick (s : State) : State := ((s.setApu s.apu.clockUnits).dmcReader).mixerStep

/-- One replayed CPU cycle (R860, D30): three dots, then one APU tick. -/
def cycleTick (s : State) : State := s.ppuTick.ppuTick.ppuTick.apuTick

/-- Replay `n` cycles. -/
def replay : Nat → State → State
  | 0, s => s
  | n + 1, s => replay n s.cycleTick

/-- `CatchUp()` (R860). -/
def catchUp (s : State) : State := { replay (s.cycles - s.lastSync) s with lastSync := s.cycles }

end State

end Sys2Proof.Machine
end

