-- ==== Sys2Proof/Machine/Operands.lean ====
section
/-! DEFINITION. Effective addresses (R402 to R409) and the three data-access kinds of R412, with the dummy accesses of
R420 to R422. The operand bytes have been fetched before (log 9), so PC is already past the instruction. -/

namespace Sys2Proof.Machine

/-- What `EA(mode)` gives (R412): the address, the unindexed base, whether the index crossed a page, and the address with
only the low byte indexed. -/
structure EffAddr where
  ea : Addr
  base : Addr
  crossed : Bool
  uncorr : Addr
  deriving DecidableEq, Repr

/-- An address without an index. -/
def EffAddr.plain (a : Addr) : EffAddr := ⟨a, a, false, a⟩

/-- A base with an index added at 16 bits (R406, R407, R409). -/
def EffAddr.indexed (base : Addr) (i : Byte) : EffAddr where
  ea := base + zext i
  base := base
  crossed := decide (hiByte (base + zext i) ≠ hiByte base)
  uncorr := join (hiByte base) (loByte base + i)

/-- The modes whose accesses make dummy reads: abx, aby, izy (R412). -/
def indexedMode : Operand → Bool
  | .abx _ | .aby _ | .izy _ => true
  | .acc | .imm _ | .zp _ | .zpx _ | .zpy _ | .izx _ | .abs _ => false

namespace State

/-- A zero-page pointer's two bytes, the second wrapping within page zero (R408, R409). -/
def readPointer (s : State) (p : Byte) : Addr × State :=
  let lo := s.memRead (zext p)
  let hi := lo.2.memRead (zext (p + 1))
  (join hi.1 lo.1, hi.2)

/-- The indirect read of JMP: the pointer's second byte comes from the same page (R410). -/
def readIndirect (s : State) (ptr : Addr) : Addr × State :=
  let lo := s.memRead ptr
  let hi := lo.2.memRead (join (hiByte ptr) (loByte ptr + 1))
  (join hi.1 lo.1, hi.2)

/-- `EA(mode)` (R402 to R409). Accumulator and immediate operands have no address; no well-formed instruction asks. -/
def effAddr (o : Operand) (s : State) : EffAddr × State :=
  match o with
  | .acc | .imm _ => (.plain 0, s)
  | .zp b => (.plain (zext b), s)
  | .zpx b => (.plain (zext (b + s.regs.x)), s)
  | .zpy b => (.plain (zext (b + s.regs.y)), s)
  | .abs w => (.plain w, s)
  | .abx w => (.indexed w s.regs.x, s)
  | .aby w => (.indexed w s.regs.y, s)
  | .izx b =>
    let p := s.readPointer (b + s.regs.x)
    (.plain p.1, p.2)
  | .izy b =>
    let p := s.readPointer b
    (.indexed p.1 s.regs.y, p.2)

/-- The dummy read and the cycle of an indexed read that crosses a page (R420). -/
def crossPenalty (o : Operand) (e : EffAddr) (s : State) : State :=
  if indexedMode o && e.crossed then (s.memRead e.uncorr).2.addCycles 1 else s

/-- `Operand(mode)` (R412). -/
def readOperand (o : Operand) (s : State) : Byte × State :=
  match o with
  | .imm v => (v, s)
  | .acc => (s.regs.a, s)
  | .zp _ | .zpx _ | .zpy _ | .izx _ | .izy _ | .abs _ | .abx _ | .aby _ =>
    let e := s.effAddr o
    (e.2.crossPenalty o e.1).memRead e.1.ea

/-- The dummy read every indexed store and read-modify-write makes (R421, R422). -/
def dummyRead (o : Operand) (e : EffAddr) (s : State) : State :=
  if indexedMode o then (s.memRead e.uncorr).2 else s

/-- `StoreEA(mode, v)` (R412). An accumulator or immediate operand is never written (R401). -/
def storeOperand (o : Operand) (v : Byte) (s : State) : State :=
  match o with
  | .acc | .imm _ => s
  | .zp _ | .zpx _ | .zpy _ | .izx _ | .izy _ | .abs _ | .abx _ | .aby _ =>
    let e := s.effAddr o
    (e.2.dummyRead o e.1).memWrite e.1.ea v

/-- The one or two writes that end a read-modify-write (R412, R421). On work RAM and save RAM a write of the old byte
before the new one leaves nothing the new one does not overwrite, so it is made only elsewhere; `writeBack_eq`
(Laws/Bus.lean) proves this equal to R412's text (log 12). -/
def writeBack (s : State) (a : Addr) (old new : Byte) : State :=
  if a.toNat ≤ 0x1FFF ∨ (0x6000 ≤ a.toNat ∧ a.toNat ≤ 0x7FFF) then s.memWrite a new
  else if s.params.rmwDummyWrite then (s.memWrite a old).memWriteSecond a new
  else s.memWrite a new

/-- `RMW(mode, f)` (R412): `f` takes the old byte and the status word and gives the new ones. The new byte comes back too. -/
def modifyOperand (o : Operand) (f : Byte → Byte → Byte × Byte) (s : State) : Byte × State :=
  match o with
  | .imm v => (v, s)
  | .acc =>
    let r := f s.regs.a s.regs.p
    (r.1, (s.setA r.1).setP r.2)
  | .zp _ | .zpx _ | .zpy _ | .izx _ | .izy _ | .abs _ | .abx _ | .aby _ =>
    let e := s.effAddr o
    let old := (e.2.dummyRead o e.1).memRead e.1.ea
    let r := f old.1 old.2.regs.p
    (r.1, (old.2.setP r.2).writeBack e.1.ea old.1 r.1)

/-- `SHStore(mode, reg)` (R720): the value is anded with the base's high byte plus one. -/
def storeHighAnd (o : Operand) (reg : Byte) (s : State) : State :=
  let e := s.effAddr o
  let val := reg &&& (hiByte e.1.base + 1)
  let s1 := (e.2.memRead e.1.uncorr).2
  let a := if e.1.crossed ∧ s.params.shAddrOnCross = .andHigh then join val (loByte e.1.ea) else e.1.ea
  s1.memWrite a val

/-- `setNZ(v)` on the machine's P (R17). -/
def setNZOf (s : State) (v : Byte) : State := s.setP (setNZ s.regs.p v)

end State

end Sys2Proof.Machine
end

