-- ==== Sys2Proof/Machine/Arith.lean ====
section
/-! DEFINITION. Arithmetic, logic, compare, increment and decrement (R500 to R519). -/

namespace Sys2Proof.Machine

namespace State

/-- A result and a status word into A and P. -/
def setAP (s : State) (r : Byte × Byte) : State := (s.setA r.1).setP r.2

/-- `A <- f(A, Operand(mode)); setNZ(A)` (R507 to R509). -/
def logic (f : Byte → Byte → Byte) (o : Operand) (s : State) : State :=
  let r := s.readOperand o
  (r.2.setA (f r.2.regs.a r.1)).setNZOf (f r.2.regs.a r.1)

/-- A register compared with `Operand(mode)` (R511 to R513). -/
def compareWith (reg : Byte) (o : Operand) (s : State) : State :=
  let r := s.readOperand o
  r.2.setP (compareP reg r.1 r.2.regs.p)

end State

/-- ADC (R505). -/
def execAdc (o : Operand) (s : State) : Result :=
  let r := s.readOperand o
  .next (r.2.setAP (adcResult s.params.decimalMode r.2.regs.a r.1 r.2.regs.p))

/-- SBC (R506). -/
def execSbc (o : Operand) (s : State) : Result :=
  let r := s.readOperand o
  .next (r.2.setAP (sbcResult s.params.decimalMode r.2.regs.a r.1 r.2.regs.p))

/-- AND (R507). -/
def execAnd (o : Operand) (s : State) : Result := .next (s.logic (· &&& ·) o)

/-- ORA (R508). -/
def execOra (o : Operand) (s : State) : Result := .next (s.logic (· ||| ·) o)

/-- EOR (R509). -/
def execEor (o : Operand) (s : State) : Result := .next (s.logic (· ^^^ ·) o)

/-- BIT (R510). -/
def execBit (o : Operand) (s : State) : Result :=
  let r := s.readOperand o
  .next (r.2.setP (bitP r.2.regs.a r.1 r.2.regs.p))

/-- CMP (R511). -/
def execCmp (o : Operand) (s : State) : Result := .next (s.compareWith s.regs.a o)

/-- CPX (R512). -/
def execCpx (o : Operand) (s : State) : Result := .next (s.compareWith s.regs.x o)

/-- CPY (R513). -/
def execCpy (o : Operand) (s : State) : Result := .next (s.compareWith s.regs.y o)

/-- INC (R514). -/
def execInc (o : Operand) (s : State) : Result := .next (s.modifyOperand o (withNZ increment)).2

/-- DEC (R515). -/
def execDec (o : Operand) (s : State) : Result := .next (s.modifyOperand o (withNZ decrement)).2

/-- INX (R516). -/
def execInx (s : State) : Result := .next ((s.setX (s.regs.x + 1)).setNZOf (s.regs.x + 1))

/-- INY (R517). -/
def execIny (s : State) : Result := .next ((s.setY (s.regs.y + 1)).setNZOf (s.regs.y + 1))

/-- DEX (R518). -/
def execDex (s : State) : Result := .next ((s.setX (s.regs.x - 1)).setNZOf (s.regs.x - 1))

/-- DEY (R519). -/
def execDey (s : State) : Result := .next ((s.setY (s.regs.y - 1)).setNZOf (s.regs.y - 1))

end Sys2Proof.Machine
end

