-- ==== Sys2Proof/Machine/Control.lean ====
section
/-! DEFINITION. Branches, jumps, calls, returns and BRK (R590 to R640). PC is the address after the instruction when a branch
or jump runs; for JSR it is the address of the high operand byte, and for BRK that of the signature byte (log 9). -/

namespace Sys2Proof.Machine

namespace State

/-- `Branch(cond)` (R600): one cycle when taken, another when the target is in another page. -/
def branch (cond : Bool) (off : Byte) (s : State) : State :=
  if cond then
    let target := s.regs.pc + sext off
    (s.addCycles (if hiByte target ≠ hiByte s.regs.pc then 2 else 1)).setPc target
  else s

end State

/-- BPL (R601). -/
def execBpl (off : Byte) (s : State) : Result := .next (s.branch (!flag s.regs.p .n) off)

/-- BMI (R602). -/
def execBmi (off : Byte) (s : State) : Result := .next (s.branch (flag s.regs.p .n) off)

/-- BVC (R603). -/
def execBvc (off : Byte) (s : State) : Result := .next (s.branch (!flag s.regs.p .v) off)

/-- BVS (R604). -/
def execBvs (off : Byte) (s : State) : Result := .next (s.branch (flag s.regs.p .v) off)

/-- BCC (R605). -/
def execBcc (off : Byte) (s : State) : Result := .next (s.branch (!flag s.regs.p .c) off)

/-- BCS (R606). -/
def execBcs (off : Byte) (s : State) : Result := .next (s.branch (flag s.regs.p .c) off)

/-- BNE (R607). -/
def execBne (off : Byte) (s : State) : Result := .next (s.branch (!flag s.regs.p .z) off)

/-- BEQ (R608). -/
def execBeq (off : Byte) (s : State) : Result := .next (s.branch (flag s.regs.p .z) off)

/-- JMP absolute (R610). -/
def execJmpAbs (target : Addr) (s : State) : Result := .next (s.setPc target)

/-- JMP indirect (R611, R410). -/
def execJmpInd (ptr : Addr) (s : State) : Result :=
  let t := s.readIndirect ptr
  .next (t.2.setPc t.1)

/-- JSR (R620): the return address is that of its last byte, the high byte of the target. That byte is fetched after the pushes
(R620), where it may be one they wrote, or before them (R284, R331, R400), as `jsrHighFetch` says (log 22); `target` holds the
byte as it stood. -/
def execJsr (target : Addr) (s : State) : Result :=
  match s.params.jsrHighFetch with
  | .afterPushes =>
    let hi := (s.pushWord s.regs.pc).fetchByte
    .next (hi.2.setPc (join hi.1 (loByte target)))
  | .beforePushes =>
    let hi := s.fetchByte
    .next ((hi.2.pushWord s.regs.pc).setPc (join hi.1 (loByte target)))

/-- RTS (R621). -/
def execRts (s : State) : Result :=
  let w := s.pullWord
  .next (w.2.setPc (w.1 + 1))

/-- RTI (R630). -/
def execRti (s : State) : Result := .next s.returnFromException

/-- BRK (R640): PC moves past the signature byte, which is not looked at, and the exception is taken. -/
def execBrk (_signature : Byte) (s : State) : Result := .next ((s.setPc (s.regs.pc + 1)).takeException .brk)

end Sys2Proof.Machine
end

