-- ==== Sys2Proof/Machine/LoadStore.lean ====
section
/-! DEFINITION. Loads, stores and register transfers (R450 to R461). PC is past the instruction and its base cycles are
counted when a meaning runs (log 9). -/

namespace Sys2Proof.Machine

/-- LDA (R450). -/
def execLda (o : Operand) (s : State) : Result :=
  let r := s.readOperand o
  .next ((r.2.setA r.1).setNZOf r.1)

/-- LDX (R451). -/
def execLdx (o : Operand) (s : State) : Result :=
  let r := s.readOperand o
  .next ((r.2.setX r.1).setNZOf r.1)

/-- LDY (R452). -/
def execLdy (o : Operand) (s : State) : Result :=
  let r := s.readOperand o
  .next ((r.2.setY r.1).setNZOf r.1)

/-- STA (R453). -/
def execSta (o : Operand) (s : State) : Result := .next (s.storeOperand o s.regs.a)

/-- STX (R454). -/
def execStx (o : Operand) (s : State) : Result := .next (s.storeOperand o s.regs.x)

/-- STY (R455). -/
def execSty (o : Operand) (s : State) : Result := .next (s.storeOperand o s.regs.y)

/-- TAX (R456). -/
def execTax (s : State) : Result := .next ((s.setX s.regs.a).setNZOf s.regs.a)

/-- TAY (R457). -/
def execTay (s : State) : Result := .next ((s.setY s.regs.a).setNZOf s.regs.a)

/-- TXA (R458). -/
def execTxa (s : State) : Result := .next ((s.setA s.regs.x).setNZOf s.regs.x)

/-- TYA (R459). -/
def execTya (s : State) : Result := .next ((s.setA s.regs.y).setNZOf s.regs.y)

/-- TSX (R460). -/
def execTsx (s : State) : Result := .next ((s.setX s.regs.sp).setNZOf s.regs.sp)

/-- TXS (R461): no flag. -/
def execTxs (s : State) : Result := .next (s.setSp s.regs.x)

end Sys2Proof.Machine
end

