-- ==== Sys2Proof/Machine/Shift.lean ====
section
/-! DEFINITION. Shifts and rotates (R560 to R564): read-modify-write instructions, on A or on memory. -/

namespace Sys2Proof.Machine

/-- ASL (R561). -/
def execAsl (o : Operand) (s : State) : Result := .next (s.modifyOperand o (withNZ shiftLeft)).2

/-- LSR (R562). -/
def execLsr (o : Operand) (s : State) : Result := .next (s.modifyOperand o (withNZ shiftRight)).2

/-- ROL (R563). -/
def execRol (o : Operand) (s : State) : Result := .next (s.modifyOperand o (withNZ rotateLeft)).2

/-- ROR (R564). -/
def execRor (o : Operand) (s : State) : Result := .next (s.modifyOperand o (withNZ rotateRight)).2

end Sys2Proof.Machine
end

