-- ==== Sys2Proof/Machine/StackFlags.lean ====
section
/-! DEFINITION. Stack, flag and no-operation instructions (R650 to R670). The one-instruction delay of CLI, SEI and PLP on
interrupt sampling (R121) is the processor call's (Machine/Call.lean). -/

namespace Sys2Proof.Machine

/-- `P.F <- v` on the machine's P. -/
def State.putFlag (s : State) (f : Flag) (v : Bool) : State := s.setP (setFlag s.regs.p f v)

/-- PHA (R650). -/
def execPha (s : State) : Result := .next (s.push s.regs.a)

/-- PLA (R651). -/
def execPla (s : State) : Result :=
  let r := s.pull
  .next ((r.2.setA r.1).setNZOf r.1)

/-- PHP (R652): B and U set in the pushed byte. -/
def execPhp (s : State) : Result := .next (s.push (pushedP s.regs.p true))

/-- PLP (R653). -/
def execPlp (s : State) : Result :=
  let r := s.pull
  .next (r.2.setP (pulledP r.1))

/-- CLC (R660). -/
def execClc (s : State) : Result := .next (s.putFlag .c false)

/-- SEC (R661). -/
def execSec (s : State) : Result := .next (s.putFlag .c true)

/-- CLI (R662). -/
def execCli (s : State) : Result := .next (s.putFlag .i false)

/-- SEI (R663). -/
def execSei (s : State) : Result := .next (s.putFlag .i true)

/-- CLD (R664). -/
def execCld (s : State) : Result := .next (s.putFlag .d false)

/-- SED (R665). -/
def execSed (s : State) : Result := .next (s.putFlag .d true)

/-- CLV (R666). -/
def execClv (s : State) : Result := .next (s.putFlag .v false)

/-- NOP (R670). -/
def execNop (s : State) : Result := .next s

end Sys2Proof.Machine
end

