-- ==== Sys2Proof/Machine/Unofficial.lean ====
section
/-! DEFINITION. The unofficial opcodes (R700 to R724), JAM (R750) and the OPEN opcodes (R770 to R777). -/

namespace Sys2Proof.Machine

/-- *NOP implied (R701). -/
def execNopImplied (_k : Fin 6) (s : State) : Result := .next s

/-- *NOP immediate (R702): its byte is fetched and discarded. -/
def execNopImmediate (_k : Fin 5) (_v : Byte) (s : State) : Result := .next s

/-- *NOP memory forms (R703): the operand is read, with its side effects, and discarded. -/
def execNopMemory (_k : Fin 6) (o : Operand) (s : State) : Result := .next (s.readOperand o).2

/-- *SBC $EB (R704): as SBC immediate. -/
def execSbcUnofficial (v : Byte) (s : State) : Result :=
  .next (s.setAP (sbcResult s.params.decimalMode s.regs.a v s.regs.p))

/-- LAX (R710). -/
def execLax (o : Operand) (s : State) : Result :=
  let r := s.readOperand o
  .next (((r.2.setA r.1).setX r.1).setNZOf r.1)

/-- SAX (R711). -/
def execSax (o : Operand) (s : State) : Result := .next (s.storeOperand o (s.regs.a &&& s.regs.x))

/-- DCP (R712). -/
def execDcp (o : Operand) (s : State) : Result :=
  let r := s.modifyOperand o decrement
  .next (r.2.setP (compareP r.2.regs.a r.1 r.2.regs.p))

/-- ISB (R713). -/
def execIsb (o : Operand) (s : State) : Result :=
  let r := s.modifyOperand o increment
  .next (r.2.setAP (sbcResult s.params.decimalMode r.2.regs.a r.1 r.2.regs.p))

/-- A read-modify-write whose result then goes into A by `g`, with N and Z (R714 to R716). -/
def State.modifyThen (f : Byte → Byte → Byte × Byte) (g : Byte → Byte → Byte) (o : Operand) (s : State) : State :=
  let r := s.modifyOperand o f
  (r.2.setA (g r.2.regs.a r.1)).setNZOf (g r.2.regs.a r.1)

/-- SLO (R714). -/
def execSlo (o : Operand) (s : State) : Result := .next (s.modifyThen shiftLeft (· ||| ·) o)

/-- RLA (R715). -/
def execRla (o : Operand) (s : State) : Result := .next (s.modifyThen rotateLeft (· &&& ·) o)

/-- SRE (R716). -/
def execSre (o : Operand) (s : State) : Result := .next (s.modifyThen shiftRight (· ^^^ ·) o)

/-- RRA (R717): the addition uses the carry the rotate produced. -/
def execRra (o : Operand) (s : State) : Result :=
  let r := s.modifyOperand o rotateRight
  .next (r.2.setAP (adcResult s.params.decimalMode r.2.regs.a r.1 r.2.regs.p))

/-- SHA (R721). -/
def execSha (o : Operand) (s : State) : Result := .next (s.storeHighAnd o (s.regs.a &&& s.regs.x))

/-- SHX (R722). -/
def execShx (o : Operand) (s : State) : Result := .next (s.storeHighAnd o s.regs.x)

/-- SHY (R723). -/
def execShy (o : Operand) (s : State) : Result := .next (s.storeHighAnd o s.regs.y)

/-- TAS (R724). -/
def execTas (o : Operand) (s : State) : Result :=
  .next ((s.setSp (s.regs.a &&& s.regs.x)).storeHighAnd o (s.regs.a &&& s.regs.x))

/-- JAM (R750). -/
def execJam (_k : Fin 12) (s : State) : Result := .next s.halt

/-- An OPEN opcode (R770): refused, halting, or its NMOS effect, as EXTRA_UNOFFICIAL says. -/
def openOpcode (mnemonic : String) (s : State) (effect : Result) : Result :=
  match s.params.extraUnofficial with
  | .refuse => .refused (.openOpcode mnemonic)
  | .jam => .next s.halt
  | .nmos => effect

/-- The fresh MAGIC byte of one execution (R774, D9), and the state with the draw counted. -/
def State.drawMagic (s : State) : Byte × State := (Config.magic s.draws, { s with draws := s.draws + 1 })

/-- ANC (R771). -/
def execAnc (_k : Fin 2) (v : Byte) (s : State) : Result :=
  let r := s.regs.a &&& v
  openOpcode "*ANC" s (.next (s.setAP (r, setFlag (setNZ s.regs.p r) .c (r.getLsbD 7))))

/-- ALR (R772). -/
def execAlr (v : Byte) (s : State) : Result :=
  openOpcode "*ALR" s (.next (s.setAP (withNZ shiftRight (s.regs.a &&& v) s.regs.p)))

/-- ARR (R773); its decimal variant is not specified and refused (R780). -/
def execArr (v : Byte) (s : State) : Result :=
  let r := ((s.regs.a &&& v) >>> 1) ||| (if flag s.regs.p .c then 0x80 else 0)
  let p := setFlag (setFlag (setNZ s.regs.p r) .c (r.getLsbD 6)) .v (r.getLsbD 6 ^^ r.getLsbD 5)
  openOpcode "*ARR" s
    (if s.params.decimalMode && flag s.regs.p .d then .refused .arrDecimal else .next (s.setAP (r, p)))

/-- XAA (R774). -/
def execXaa (v : Byte) (s : State) : Result :=
  let m := s.drawMagic
  let r := (s.regs.a ||| m.1) &&& s.regs.x &&& v
  openOpcode "*XAA" s (.next ((m.2.setA r).setNZOf r))

/-- LXA (R775). -/
def execLxa (v : Byte) (s : State) : Result :=
  let m := s.drawMagic
  let r := (s.regs.a ||| m.1) &&& v
  openOpcode "*LXA" s (.next (((m.2.setA r).setX r).setNZOf r))

/-- LAS (R776). -/
def execLas (o : Operand) (s : State) : Result :=
  let m := s.readOperand o
  let r := m.1 &&& m.2.regs.sp
  openOpcode "*LAS" s (.next ((((m.2.setA r).setX r).setSp r).setNZOf r))

/-- AXS (R777): the carry in is ignored. -/
def execAxs (v : Byte) (s : State) : Result :=
  let t := s.regs.a &&& s.regs.x
  openOpcode "*AXS" s (.next ((s.setX (t - v)).setP (compareP t v s.regs.p)))

end Sys2Proof.Machine
end

