-- ==== Sys2Proof/Machine/Dispatch.lean ====
section
/-! DEFINITION. The dispatch: one arm per constructor, each one direct call of its meaning. -/

namespace Sys2Proof.Machine

def exec (i : Instr) (s : State) : Host.Outcome State Fault Refusal :=
  match i with
  -- loads, stores, transfers (R450 to R461)
  | .lda o => Sys2Proof.Machine.execLda o s
  | .ldx o => Sys2Proof.Machine.execLdx o s
  | .ldy o => Sys2Proof.Machine.execLdy o s
  | .sta o => Sys2Proof.Machine.execSta o s
  | .stx o => Sys2Proof.Machine.execStx o s
  | .sty o => Sys2Proof.Machine.execSty o s
  | .tax => Sys2Proof.Machine.execTax s
  | .tay => Sys2Proof.Machine.execTay s
  | .txa => Sys2Proof.Machine.execTxa s
  | .tya => Sys2Proof.Machine.execTya s
  | .tsx => Sys2Proof.Machine.execTsx s
  | .txs => Sys2Proof.Machine.execTxs s
  -- arithmetic, logic, compare, increment, decrement (R505 to R519)
  | .adc o => Sys2Proof.Machine.execAdc o s
  | .sbc o => Sys2Proof.Machine.execSbc o s
  | .and o => Sys2Proof.Machine.execAnd o s
  | .ora o => Sys2Proof.Machine.execOra o s
  | .eor o => Sys2Proof.Machine.execEor o s
  | .bit o => Sys2Proof.Machine.execBit o s
  | .cmp o => Sys2Proof.Machine.execCmp o s
  | .cpx o => Sys2Proof.Machine.execCpx o s
  | .cpy o => Sys2Proof.Machine.execCpy o s
  | .inc o => Sys2Proof.Machine.execInc o s
  | .dec o => Sys2Proof.Machine.execDec o s
  | .inx => Sys2Proof.Machine.execInx s
  | .iny => Sys2Proof.Machine.execIny s
  | .dex => Sys2Proof.Machine.execDex s
  | .dey => Sys2Proof.Machine.execDey s
  -- shifts and rotates (R561 to R564)
  | .asl o => Sys2Proof.Machine.execAsl o s
  | .lsr o => Sys2Proof.Machine.execLsr o s
  | .rol o => Sys2Proof.Machine.execRol o s
  | .ror o => Sys2Proof.Machine.execRor o s
  -- control flow (R601 to R640)
  | .bpl off => Sys2Proof.Machine.execBpl off s
  | .bmi off => Sys2Proof.Machine.execBmi off s
  | .bvc off => Sys2Proof.Machine.execBvc off s
  | .bvs off => Sys2Proof.Machine.execBvs off s
  | .bcc off => Sys2Proof.Machine.execBcc off s
  | .bcs off => Sys2Proof.Machine.execBcs off s
  | .bne off => Sys2Proof.Machine.execBne off s
  | .beq off => Sys2Proof.Machine.execBeq off s
  | .jmpAbs target => Sys2Proof.Machine.execJmpAbs target s
  | .jmpInd ptr => Sys2Proof.Machine.execJmpInd ptr s
  | .jsr target => Sys2Proof.Machine.execJsr target s
  | .rts => Sys2Proof.Machine.execRts s
  | .rti => Sys2Proof.Machine.execRti s
  | .brk signature => Sys2Proof.Machine.execBrk signature s
  -- stack, flags, no operation (R650 to R670)
  | .pha => Sys2Proof.Machine.execPha s
  | .pla => Sys2Proof.Machine.execPla s
  | .php => Sys2Proof.Machine.execPhp s
  | .plp => Sys2Proof.Machine.execPlp s
  | .clc => Sys2Proof.Machine.execClc s
  | .sec => Sys2Proof.Machine.execSec s
  | .cli => Sys2Proof.Machine.execCli s
  | .sei => Sys2Proof.Machine.execSei s
  | .cld => Sys2Proof.Machine.execCld s
  | .sed => Sys2Proof.Machine.execSed s
  | .clv => Sys2Proof.Machine.execClv s
  | .nop => Sys2Proof.Machine.execNop s
  -- implemented unofficial opcodes (R701 to R724)
  | .nopImplied k => Sys2Proof.Machine.execNopImplied k s
  | .nopImmediate k v => Sys2Proof.Machine.execNopImmediate k v s
  | .nopMemory k o => Sys2Proof.Machine.execNopMemory k o s
  | .sbcUnofficial v => Sys2Proof.Machine.execSbcUnofficial v s
  | .lax o => Sys2Proof.Machine.execLax o s
  | .sax o => Sys2Proof.Machine.execSax o s
  | .dcp o => Sys2Proof.Machine.execDcp o s
  | .isb o => Sys2Proof.Machine.execIsb o s
  | .slo o => Sys2Proof.Machine.execSlo o s
  | .rla o => Sys2Proof.Machine.execRla o s
  | .sre o => Sys2Proof.Machine.execSre o s
  | .rra o => Sys2Proof.Machine.execRra o s
  | .sha o => Sys2Proof.Machine.execSha o s
  | .shx o => Sys2Proof.Machine.execShx o s
  | .shy o => Sys2Proof.Machine.execShy o s
  | .tas o => Sys2Proof.Machine.execTas o s
  -- halt (R750)
  | .jam k => Sys2Proof.Machine.execJam k s
  -- OPEN unofficial opcodes (R771 to R777)
  | .anc k v => Sys2Proof.Machine.execAnc k v s
  | .alr v => Sys2Proof.Machine.execAlr v s
  | .arr v => Sys2Proof.Machine.execArr v s
  | .xaa v => Sys2Proof.Machine.execXaa v s
  | .lxa v => Sys2Proof.Machine.execLxa v s
  | .las o => Sys2Proof.Machine.execLas o s
  | .axs v => Sys2Proof.Machine.execAxs v s

end Sys2Proof.Machine
end

