-- ==== Sys2Proof/Machine/Trace.lean ====
section
/-! DEFINITION. The reference trace (R360 to R364, R881): the line an executed instruction emits, made from the state before
the call with `Peek`, so that it changes nothing. -/

namespace Sys2Proof.Machine

/-- One upper-case hexadecimal digit. -/
def hexDigit (n : Nat) : Char := "0123456789ABCDEF".toList.getD n '?'

/-- Two digits. -/
def hex2 (b : Byte) : List Char := [hexDigit (b.toNat / 16), hexDigit (b.toNat % 16)]

/-- Four digits. -/
def hex4 (w : Addr) : List Char := hex2 (hiByte w) ++ hex2 (loByte w)

/-- Fill with spaces up to a width. -/
def padTo (n : Nat) (l : List Char) : List Char := l ++ List.replicate (n - l.length) ' '

/-- The mnemonic shown, without the `*` of R364's column 15. -/
def mnemonicText : Instr → String
  | .lda _ => "LDA"
  | .ldx _ => "LDX"
  | .ldy _ => "LDY"
  | .sta _ => "STA"
  | .stx _ => "STX"
  | .sty _ => "STY"
  | .tax => "TAX"
  | .tay => "TAY"
  | .txa => "TXA"
  | .tya => "TYA"
  | .tsx => "TSX"
  | .txs => "TXS"
  | .adc _ => "ADC"
  | .sbc _ | .sbcUnofficial _ => "SBC"
  | .and _ => "AND"
  | .ora _ => "ORA"
  | .eor _ => "EOR"
  | .bit _ => "BIT"
  | .cmp _ => "CMP"
  | .cpx _ => "CPX"
  | .cpy _ => "CPY"
  | .inc _ => "INC"
  | .dec _ => "DEC"
  | .inx => "INX"
  | .iny => "INY"
  | .dex => "DEX"
  | .dey => "DEY"
  | .asl _ => "ASL"
  | .lsr _ => "LSR"
  | .rol _ => "ROL"
  | .ror _ => "ROR"
  | .bpl _ => "BPL"
  | .bmi _ => "BMI"
  | .bvc _ => "BVC"
  | .bvs _ => "BVS"
  | .bcc _ => "BCC"
  | .bcs _ => "BCS"
  | .bne _ => "BNE"
  | .beq _ => "BEQ"
  | .jmpAbs _ | .jmpInd _ => "JMP"
  | .jsr _ => "JSR"
  | .rts => "RTS"
  | .rti => "RTI"
  | .brk _ => "BRK"
  | .pha => "PHA"
  | .pla => "PLA"
  | .php => "PHP"
  | .plp => "PLP"
  | .clc => "CLC"
  | .sec => "SEC"
  | .cli => "CLI"
  | .sei => "SEI"
  | .cld => "CLD"
  | .sed => "SED"
  | .clv => "CLV"
  | .nop | .nopImplied _ | .nopImmediate _ _ | .nopMemory _ _ => "NOP"
  | .lax _ => "LAX"
  | .sax _ => "SAX"
  | .dcp _ => "DCP"
  | .isb _ => "ISB"
  | .slo _ => "SLO"
  | .rla _ => "RLA"
  | .sre _ => "SRE"
  | .rra _ => "RRA"
  | .sha _ => "SHA"
  | .shx _ => "SHX"
  | .shy _ => "SHY"
  | .tas _ => "TAS"
  | .jam _ => "JAM"
  | .anc _ _ => "ANC"
  | .alr _ => "ALR"
  | .arr _ => "ARR"
  | .xaa _ => "XAA"
  | .lxa _ => "LXA"
  | .las _ => "LAS"
  | .axs _ => "AXS"

namespace State

/-- A zero-page pointer read with `Peek` (R408, R409). -/
def peekPointer (s : State) (p : Byte) : Addr := join (s.peek (zext (p + 1))) (s.peek (zext p))

/-- The text of a byte operand (R363). -/
def operandText (s : State) : Operand → List Char
  | .acc => "A".toList
  | .imm v => "#$".toList ++ hex2 v
  | .zp b => "$".toList ++ hex2 b ++ " = ".toList ++ hex2 (s.peek (zext b))
  | .zpx b =>
    let e := b + s.regs.x
    "$".toList ++ hex2 b ++ ",X @ ".toList ++ hex2 e ++ " = ".toList ++ hex2 (s.peek (zext e))
  | .zpy b =>
    let e := b + s.regs.y
    "$".toList ++ hex2 b ++ ",Y @ ".toList ++ hex2 e ++ " = ".toList ++ hex2 (s.peek (zext e))
  | .abs w => "$".toList ++ hex4 w ++ " = ".toList ++ hex2 (s.peek w)
  | .abx w =>
    let e := w + zext s.regs.x
    "$".toList ++ hex4 w ++ ",X @ ".toList ++ hex4 e ++ " = ".toList ++ hex2 (s.peek e)
  | .aby w =>
    let e := w + zext s.regs.y
    "$".toList ++ hex4 w ++ ",Y @ ".toList ++ hex4 e ++ " = ".toList ++ hex2 (s.peek e)
  | .izx b =>
    let p := b + s.regs.x
    let a := s.peekPointer p
    "($".toList ++ hex2 b ++ ",X) @ ".toList ++ hex2 p ++ " = ".toList ++ hex4 a ++ " = ".toList ++ hex2 (s.peek a)
  | .izy b =>
    let base := s.peekPointer b
    let e := base + zext s.regs.y
    "($".toList ++ hex2 b ++ "),Y = ".toList ++ hex4 base ++ " @ ".toList ++ hex4 e ++ " = ".toList ++ hex2 (s.peek e)

/-- The operand text of an instruction at PC (R360, R363). -/
def instrText (s : State) : Instr → List Char
  | .lda o | .ldx o | .ldy o | .sta o | .stx o | .sty o => s.operandText o
  | .adc o | .sbc o | .and o | .ora o | .eor o | .bit o | .cmp o | .cpx o | .cpy o => s.operandText o
  | .inc o | .dec o | .asl o | .lsr o | .rol o | .ror o => s.operandText o
  | .nopMemory _ o | .lax o | .sax o | .dcp o | .isb o | .slo o | .rla o | .sre o | .rra o => s.operandText o
  | .sha o | .shx o | .shy o | .tas o | .las o => s.operandText o
  | .nopImmediate _ v | .sbcUnofficial v | .anc _ v | .alr v | .arr v | .xaa v | .lxa v | .axs v => "#$".toList ++ hex2 v
  | .bpl b | .bmi b | .bvc b | .bvs b | .bcc b | .bcs b | .bne b | .beq b =>
    "$".toList ++ hex4 (s.regs.pc + 2 + sext b)
  | .jmpAbs w | .jsr w => "$".toList ++ hex4 w
  | .jmpInd w =>
    let t := join (s.peek (join (hiByte w) (loByte w + 1))) (s.peek w)
    "($".toList ++ hex4 w ++ ") = ".toList ++ hex4 t
  | .tax | .tay | .txa | .tya | .tsx | .txs | .inx | .iny | .dex | .dey => []
  | .rts | .rti | .brk _ | .pha | .pla | .php | .plp => []
  | .clc | .sec | .cli | .sei | .cld | .sed | .clv | .nop | .nopImplied _ | .jam _ => []

/-- The instruction's bytes as text (R364). -/
def bytesText (s : State) (operands : Nat) : List Char :=
  let pc := s.regs.pc
  match operands with
  | 0 => hex2 (s.peek pc)
  | 1 => hex2 (s.peek pc) ++ [' '] ++ hex2 (s.peek (pc + 1))
  | _ => hex2 (s.peek pc) ++ [' '] ++ hex2 (s.peek (pc + 1)) ++ [' '] ++ hex2 (s.peek (pc + 2))

/-- The register fields (R361): the values before the instruction. -/
def regsText (s : State) : List Char :=
  "A:".toList ++ hex2 s.regs.a ++ " X:".toList ++ hex2 s.regs.x ++ " Y:".toList ++ hex2 s.regs.y ++
  " P:".toList ++ hex2 (pushedP s.regs.p false) ++ " SP:".toList ++ hex2 s.regs.sp ++
  " CYC:".toList ++ Nat.toDigits 10 s.cycles

/-- The trace line of the instruction at PC (R361, R364). -/
def traceLine (s : State) : List Char :=
  let pc := s.regs.pc
  let row := rowOf (s.peek pc)
  let i := row.build (s.peek (pc + 1)) (s.peek (pc + 2))
  let star := if row.cls = .unofficial ∨ row.cls = .openSet then '*' else ' '
  let head := padTo 15 (hex4 pc ++ "  ".toList ++ s.bytesText row.operands)
  padTo 48 (head ++ [star] ++ (mnemonicText i).toList ++ [' '] ++ s.instrText i) ++ s.regsText

end State

end Sys2Proof.Machine
end

