-- ==== Sys2Proof/Machine/Call.lean ====
section
/-! DEFINITION. The processor call (R861): fetching and decoding (R330), executing one instruction, the DMA micro-step (R841)
and the choice between them, interrupts among it (R811 to R815). Placing an instruction where the next call fetches it stands
here too. -/

namespace Sys2Proof.Machine

/-- An instruction fetched, with the machine as its effect function finds it. -/
structure Fetched where
  instr : Instr
  state : State

/-- The rows whose decoding leaves PC and `cycles` alone (R330, R340): JAM, and the OPEN opcodes under
EXTRA_UNOFFICIAL = jam. -/
def parks (r : Row) (p : Params) : Bool :=
  r.cls == .jam || (r.cls == .openSet && p.extraUnofficial == .jam)

namespace State

/-- Fetch and decode the instruction at PC (R330, R331): the opcode, then the base cycles and PC, then the operand bytes its
effect function fetches first. Bytes no rule fetches before the effect (JSR's third, BRK's second, those after a parked
opcode) are looked at with `Peek` (log 9). -/
def fetchInstr (s : State) : Fetched :=
  let op := s.memRead s.regs.pc
  let r := rowOf op.1
  if parks r s.params then ⟨r.build (op.2.peek (s.regs.pc + 1)) (op.2.peek (s.regs.pc + 2)), op.2⟩
  else
    let s1 := (op.2.setPc (s.regs.pc + 1)).addCycles r.base
    match r.fetches with
    | 0 => ⟨r.build (s1.peek s1.regs.pc) (s1.peek (s1.regs.pc + 1)), s1⟩
    | 1 =>
      let b1 := s1.fetchByte
      ⟨r.build b1.1 (b1.2.peek b1.2.regs.pc), b1.2⟩
    | _ =>
      let b1 := s1.fetchByte
      let b2 := b1.2.fetchByte
      ⟨r.build b1.1 b2.1, b2.2⟩

/-- `irqMaskSample <- P.I` (R121). -/
def sampleMask (s : State) : State := { s with irqMaskSample := flag s.regs.p .i }

end State

/-- The instructions whose effect on interrupt sampling is one instruction late (R121, D19). -/
def delaysMask : Instr → Bool
  | .cli | .sei | .plp => true
  | _ => false

namespace State

/-- What `ExecuteInstruction()` leaves behind beside the effect: the mask sample, one instruction late for CLI, SEI and PLP
(R121, R861), and the trace line of the state before the call (R881), which a halting opcode does not emit (log 10). -/
def finishInstr (before : State) (i : Instr) (t : State) : State :=
  let u := { t with irqMaskSample := if delaysMask i then flag before.regs.p .i else flag t.regs.p .i }
  if t.halted then u else u.emit (.trace before.traceLine)

/-- `ExecuteInstruction()` (R861). -/
def executeInstruction (s : State) : Result :=
  match exec s.fetchInstr.instr s.fetchInstr.state with
  | .next t => .next (s.finishInstr s.fetchInstr.instr t)
  | .fault f => .fault f
  | .refused r => .refused r

/-- `DmaMicroStep()` (R841): an alignment cycle, or one byte copied to OAMDATA. -/
def dmaMicroStep (s : State) : State :=
  if s.dma.align ≠ 0 then { s with dma := { s.dma with align := s.dma.align - 1 } }.addCycles 1
  else
    let r := s.memRead (join s.dma.page s.dma.offset)
    let t := (r.2.memWrite 0x2004 r.1).addCycles 2
    if s.dma.offset = 0xFF then { t with dma := { t.dma with active := false, offset := 0 } }
    else { t with dma := { t.dma with offset := s.dma.offset + 1 } }

/-- The whole work of a halted call: the re-fetch of the JAM opcode, which leaves the state as it is (R850, D14) or is the bus
read of R861, as `jamRefetch` says (log 24). -/
def refetchJam (s : State) : State :=
  match s.params.jamRefetch with
  | .fixedPoint => s
  | .busRead => (s.memRead s.regs.pc).2

/-- `ProcessorCall()` (R861), in the priority order of R815. -/
def processorCall (s : State) : Result :=
  if s.refused then .refused .runRefused
  else if s.halted then .next s.refetchJam
  else if s.dma.active then .next s.dmaMicroStep.sampleMask
  else if s.noPollOnce then executeInstruction { s with noPollOnce := false }
  else if s.nmiPending then .next (s.takeException .nmi).sampleMask
  else if s.apu.irqLine && !s.irqMaskSample then .next (s.takeException .irq).sampleMask
  else executeInstruction s

/-! ## Placing an instruction (log 1) -/

/-- Whether an address names a stored byte: work RAM, save RAM or program ROM. -/
def isStored (a : Addr) : Bool := decide (a.toNat ≤ 0x1FFF) || decide (0x6000 ≤ a.toNat)

/-- Put a byte into the store an address reads from. -/
def poke (s : State) (a : Addr) (v : Byte) : State :=
  if a.toNat ≤ 0x1FFF then s.setRam (a.toNat % 0x800) v
  else if a.toNat ≤ 0x5FFF then s
  else if a.toNat ≤ 0x7FFF then s.setSram (a.toNat - 0x6000) v
  else { s with cart := { s.cart with prg := s.cart.prg.romWrite (s.prgIndex a.toNat) v } }

/-- The address an instruction is placed at: PC, unless the bytes there are not all storage; then $0000. -/
def placeAddr (s : State) : Addr :=
  if isStored s.regs.pc && isStored (s.regs.pc + 1) && isStored (s.regs.pc + 2) then s.regs.pc else 0

/-- Make the very next processor call execute the three bytes given: they stand at PC, the processor is not halted, refused
or in a transfer, and a pending interrupt waits one call. -/
def placeInstr (s : State) (b0 b1 b2 : Byte) : State :=
  let a := s.placeAddr
  let t := (((s.setPc a).poke a b0).poke (a + 1) b1).poke (a + 2) b2
  { t with
    halted := false
    refused := false
    dma := { t.dma with active := false }
    noPollOnce := t.noPollOnce || t.nmiPending || (t.apu.irqLine && !t.irqMaskSample) }

end State

end Sys2Proof.Machine
end

