-- ==== Sys2Proof/Machine/Step.lean ====
section
/-! DEFINITION. One step of the machine (R862), and how the host places an instruction. -/

namespace Sys2Proof.Machine

/-- `Step() = ProcessorCall(); CatchUp()` (R862). What the last step delivered to the host is dropped first (log 14). -/
def step (s : State) : Host.Outcome State Fault Refusal :=
  match ({ s with out := [] } : State).processorCall with
  | .next t => .next t.catchUp
  | .fault f => .fault f
  | .refused r => .refused r

/-- The state with the instruction of the table whose bits are `w` placed where the next step fetches (log 1): three bytes,
the first lowest, bits from `nbits` up zero. -/
def State.withFetchWord (s : State) (nbits w : Nat) : State :=
  let v := w % 2 ^ nbits
  s.placeInstr (BitVec.ofNat 8 v) (BitVec.ofNat 8 (v / 2 ^ 8)) (BitVec.ofNat 8 (v / 2 ^ 16))

end Sys2Proof.Machine
end

