-- ==== Sys2Proof/Machine/PowerOn.lean ====
section
/-! DEFINITION. The cartridge image and power-on (R260 to R263, R1100 to R1102). -/

namespace Sys2Proof.Machine

/-- Header byte `k` of an image. -/
def headerByte (img : List Byte) (k : Nat) : Byte := img.getD k 0

/-- The mapper ID (R260): the two nibbles. -/
def mapperId (img : List Byte) : Nat := (headerByte img 7).toNat / 16 * 16 + (headerByte img 6).toNat / 16

/-- The program-bank count (R260). -/
def imagePrgBanks (img : List Byte) : Nat := (headerByte img 4).toNat

/-- The pattern-bank count (R260). -/
def imageChrBanks (img : List Byte) : Nat := (headerByte img 5).toNat

/-- The signature `N`, `E`, `S`, $1A (R260). -/
def signature : List Byte := [0x4E, 0x45, 0x53, 0x1A]

/-- What is wrong with an image (R262), if anything: the checks a load makes before any state exists. -/
def imageFault (img : List Byte) : Option Fault :=
  if img.take 4 ≠ signature then some .badSignature
  else if imagePrgBanks img = 0 then some .zeroProgramBanks
  else if 1 < mapperId img then some .unsupportedMapper
  else if (headerByte img 6).getLsbD 2 then some .trainerBit
  else if (headerByte img 6).getLsbD 3 then some .fourScreenBit
  else if img.length < 16 + 16384 * imagePrgBanks img + 8192 * imageChrBanks img then some .shortImage
  else if mapperId img = 0 ∧ (2 < imagePrgBanks img ∨ 1 < imageChrBanks img) then some .oversizedMapper0
  else none

/-- The cartridge of an image without a fault (R260, R261): program data, then pattern data, after the header. -/
def cartOf (img : List Byte) : Cart where
  mapper := if mapperId img = 0 then .nrom else .mmc1
  vertical := (headerByte img 6).getLsbD 0
  battery := (headerByte img 6).getLsbD 1
  prgBanks := imagePrgBanks img
  chrBanks := imageChrBanks img
  prg := Memory.romOf 0 ((img.drop 16).take (16384 * imagePrgBanks img))
  chr := Memory.romOf 0 ((img.drop (16 + 16384 * imagePrgBanks img)).take (8192 * imageChrBanks img))

/-- Power-on with a cartridge (R1100, R1101): PC from the reset vector, by two bus reads that set the open-bus latch. -/
def State.powerOn (cart : Cart) (params : Params) : State :=
  let v := (State.powered cart params (initLatch params) 0).read16 resetVector
  v.2.setPc v.1

/-- Power-on of the trace harness (R1102, R1105): the same with zero for INIT_MEM and INIT_OPEN_BUS, and then PC = $C000 instead
of the reset vector, whose two reads still leave the open-bus latch (vector R2 of spec/95; log 21). -/
def State.powerOnTrace (cart : Cart) (params : Params) : State :=
  (State.powerOn cart params.traceHarness).setPc 0xC000

/-- Power-on with an image (R1100 step 1): a load error aborts before any state exists (R262). -/
def powerOnImage (img : List Byte) (params : Params) : Result :=
  match imageFault img with
  | some f => .fault f
  | none => .next (State.powerOn (cartOf img) params)

end Sys2Proof.Machine
end

