-- ==== Sys2Proof/Safety.lean ====
section
/-! DEFINITION. The terms claims are stated in: which registers, flags and bytes a change keeps, where a store lands, the
invariant of the machine's states, and when a run has ended. -/

namespace Sys2Proof.Machine

/-! ## Registers and flags -/

/-- The 8-bit registers (R100). -/
inductive Reg | a | x | y | sp | p
  deriving DecidableEq, Repr

/-- The value of an 8-bit register. -/
def Regs.get (r : Regs) : Reg → Byte
  | .a => r.a
  | .x => r.x
  | .y => r.y
  | .sp => r.sp
  | .p => r.p

/-- Every 8-bit register but those listed holds in `t` what it holds in `s`. -/
def keepsRegs (s t : State) (but : List Reg) : Prop := ∀ r : Reg, r ∉ but → t.regs.get r = s.regs.get r

/-- Every bit of the status word but the flags listed is in `q` what it is in `p`. -/
def keepsFlags (p q : Byte) (but : List Flag) : Prop := ∀ f : Flag, f ∉ but → flag q f = flag p f

/-- N and Z of the status word `q` are those of the byte `v` (R17). -/
def showsNZ (q v : Byte) : Prop := flag q .n = v.getLsbD 7 ∧ flag q .z = decide (v = 0)

/-- `t` is `s` in everything outside the six registers: memory, devices, cycle counter, latches, parameters. -/
def sameOutsideRegs (s t : State) : Prop := { t with regs := s.regs } = s

/-- The status word has B clear and U set (R115, R116). -/
def statusOk (p : Byte) : Bool := !flag p .b && flag p .u

/-! ## Bytes of storage -/

/-- A byte of one of the machine's stores: work RAM, save RAM, program ROM, pattern memory, nametables, OAM, palette. -/
inductive Loc
  | work (i : Nat)
  | save (i : Nat)
  | prg (i : Nat)
  | chr (i : Nat)
  | nt (i : Nat)
  | oam (i : Byte)
  | pal (i : Nat)
  deriving DecidableEq, Repr

namespace State

/-- The byte a store holds at a place. -/
def readLoc (s : State) : Loc → Byte
  | .work i => s.ramByte i
  | .save i => s.sramByte i
  | .prg i => s.prgByte i
  | .chr i => s.chrByte i
  | .nt i => s.ntByte i
  | .oam i => s.oamByte i
  | .pal i => s.palByte i

/-- The place a PPU-bus write reaches (R910 to R913): none for pattern ROM. -/
def ppuStoreLoc (s : State) (addr : Nat) : Option Loc :=
  let a := addr % 0x4000
  if a < 0x2000 then (if s.cart.chrBanks = 0 then some (.chr (s.chrIndex a)) else none)
  else if a < 0x3F00 then some (.nt (s.ntIndex a))
  else some (.pal (palIndex a))

/-- The place a CPU write to an address changes in the state `s` (R220 to R226): RAM, save RAM, OAM through $2004, the PPU
bus through $2007; no other address is storage. -/
def storeLoc (s : State) (a : Addr) : Option Loc :=
  if a.toNat ≤ 0x1FFF then some (.work (a.toNat % 0x800))
  else if a.toNat ≤ 0x3FFF then
    match a.toNat % 8 with
    | 4 => some (.oam s.ppu.oamAddr)
    | 7 => s.ppuStoreLoc s.ppu.busAddr
    | _ => none
  else if 0x6000 ≤ a.toNat ∧ a.toNat ≤ 0x7FFF then some (.save (a.toNat - 0x6000))
  else none

/-- The place the stack byte of a stack pointer has: page one of work RAM (R430). -/
def stackLoc (sp : Byte) : Loc := .work (0x100 + sp.toNat)

end State

/-- Every byte of storage but those in `but` reads in `t` as it reads in `s`. -/
def keepsBytes (s t : State) (but : List (Option Loc)) : Prop := ∀ l : Loc, some l ∉ but → t.readLoc l = s.readLoc l

/-- An address whose access has no effect on a device: not a PPU register and not $4000 to $4017 (R201, R273). -/
def plainAddr (a : Addr) : Bool := decide (a.toNat ≤ 0x1FFF) || decide (0x4018 ≤ a.toNat)

/-- What the place of a write holds after it: the byte written, its low six bits in the palette (R913). -/
def storedByte (l : Loc) (v : Byte) : Byte :=
  match l with
  | .pal _ => v &&& 0x3F
  | _ => v

/-- The old byte of a read-modify-write of memory, and the state after it is read (R412). -/
def State.oldByte (o : Operand) (s : State) : Byte × State :=
  ((s.effAddr o).2.dummyRead o (s.effAddr o).1).memRead (s.effAddr o).1.ea

/-- The memory and devices after a read-modify-write of memory that makes `new` of the old byte (R412, R421). -/
def State.rewritten (o : Operand) (new : Byte) (s : State) : State :=
  (s.oldByte o).2.writeBack (s.effAddr o).1.ea (s.oldByte o).1 new

/-- The places the one or two writes of a read-modify-write reach, in order (R421). -/
def State.rewrittenLocs (o : Operand) (s : State) : List (Option Loc) :=
  let u := (s.oldByte o).2
  let a := (s.effAddr o).1.ea
  if s.params.rmwDummyWrite then [u.storeLoc a, (u.memWrite a (s.oldByte o).1).storeLoc a] else [u.storeLoc a]

/-! ## Shapes of instructions
Each says that an instruction goes on to a next state, what it leaves where, and that it leaves everything else alone. -/

/-- `i` puts `v` into the register `r`, N and Z showing it; everything else stays. -/
def movesTo (i : Instr) (s : State) (r : Reg) (v : Byte) : Prop :=
  ∃ t, exec i s = .next t ∧ t.regs.get r = v ∧ showsNZ t.regs.p v ∧ keepsFlags s.regs.p t.regs.p [.n, .z] ∧
    keepsRegs s t [.p, r] ∧ t.regs.pc = s.regs.pc ∧ sameOutsideRegs s t

/-- `i` reads `o` and leaves the value `v` in the registers `rs`, N and Z showing it, everything else as the read leaves
it, no byte of storage changed. -/
def loadsTo (i : Instr) (o : Operand) (s : State) (rs : List Reg) (v : Byte) : Prop :=
  ∃ t, exec i s = .next t ∧ (∀ r ∈ rs, t.regs.get r = v) ∧ showsNZ t.regs.p v ∧ keepsFlags s.regs.p t.regs.p [.n, .z] ∧
    keepsRegs s t (.p :: rs) ∧ t.regs.pc = s.regs.pc ∧ sameOutsideRegs (s.readOperand o).2 t ∧ keepsBytes s t []

/-- `i` stores `v` at the address of `o`, after the dummy read of an indexed form: the place reached holds it, every other
byte, every register and the cycle counter stay. -/
def storesTo (i : Instr) (o : Operand) (s : State) (v : Byte) : Prop :=
  let u := (s.effAddr o).2.dummyRead o (s.effAddr o).1
  let a := (s.effAddr o).1.ea
  ∃ t, exec i s = .next t ∧ t.regs = s.regs ∧ t.cycles = s.cycles ∧ t = u.memWrite a v ∧
    (∀ l, u.storeLoc a = some l → t.readLoc l = storedByte l v) ∧ keepsBytes s t [u.storeLoc a]

/-- `i` rewrites its operand, A or memory, as `new` says, N and Z showing the new byte and C as `carry` says of the old
one; every other flag, register and byte stays. -/
def rewritesTo (i : Instr) (o : Operand) (s : State) (new : Byte → Byte) (carry : Byte → Bool) : Prop :=
  ∃ t, exec i s = .next t ∧ t.regs.pc = s.regs.pc ∧ keepsFlags s.regs.p t.regs.p [.c, .n, .z] ∧
    (o = .acc →
      t.regs.a = new s.regs.a ∧ showsNZ t.regs.p (new s.regs.a) ∧ flag t.regs.p .c = carry s.regs.a ∧
        keepsRegs s t [.a, .p] ∧ sameOutsideRegs s t) ∧
    (o ≠ .acc →
      let old := (s.oldByte o).1
      showsNZ t.regs.p (new old) ∧ flag t.regs.p .c = carry old ∧ keepsRegs s t [.p] ∧ t.cycles = s.cycles ∧
        sameOutsideRegs (s.rewritten o (new old)) t ∧ keepsBytes s t (s.rewrittenLocs o) ∧
        ∀ l, (s.rewrittenLocs o).getLast? = some (some l) → t.readLoc l = storedByte l (new old))

/-- `i` rewrites memory as `new` says, with C as `carry` says before the rest, and then does to A and the flags what `j`
does with the new byte as its immediate operand; the bytes it writes are those of the rewriting. -/
def rewritesThen (i : Instr) (o : Operand) (s : State) (new : Byte → Byte) (carry : Byte → Bool) (j : Operand → Instr) :
    Prop :=
  let old := (s.oldByte o).1
  ∃ t u, exec i s = .next t ∧ exec (j (.imm (new old))) u = .next t ∧
    flag u.regs.p .c = carry old ∧ keepsFlags s.regs.p u.regs.p [.c] ∧ keepsRegs s u [.p] ∧ u.regs.pc = s.regs.pc ∧
    sameOutsideRegs (s.rewritten o (new old)) u ∧ keepsBytes s t (s.rewrittenLocs o) ∧
    ∀ l, (s.rewrittenLocs o).getLast? = some (some l) → t.readLoc l = storedByte l (new old)

/-- `i` compares `reg` with the operand: C is "no borrow", Z equality, N bit 7 of the difference; nothing is written but P. -/
def comparesTo (i : Instr) (o : Operand) (s : State) (reg : Byte) : Prop :=
  let m := (s.readOperand o).1
  ∃ t, exec i s = .next t ∧ flag t.regs.p .c = decide (m.toNat ≤ reg.toNat) ∧ flag t.regs.p .z = decide (reg = m) ∧
    flag t.regs.p .n = (reg - m).getLsbD 7 ∧ keepsFlags s.regs.p t.regs.p [.c, .z, .n] ∧ keepsRegs s t [.p] ∧
    t.regs.pc = s.regs.pc ∧ sameOutsideRegs (s.readOperand o).2 t ∧ keepsBytes s t []

/-- `i` branches by `off` from the address after the instruction when `cond` holds, for one cycle, or two into another page;
otherwise it does nothing. -/
def branchesIf (i : Instr) (s : State) (cond : Bool) (off : Byte) : Prop :=
  (cond = false → exec i s = .next s) ∧
  (cond = true → ∃ t, exec i s = .next t ∧
    (t.regs.pc.toNat : Int) = ((s.regs.pc.toNat : Int) + off.toInt) % 65536 ∧
    t.cycles = s.cycles + (if t.regs.pc.toNat / 256 = s.regs.pc.toNat / 256 then 1 else 2) ∧
    keepsRegs s t [] ∧ { t with regs := s.regs, cycles := s.cycles } = s)

/-- `t` is `s` with a handler entered: PC and P saved on the stack with B as given, I set, PC at the vector's address, and
nothing else changed but the open-bus latch, `noPollOnce`, the cycle counter and the NMI latches. -/
def entersHandler (s t : State) (b : Bool) (vector : Addr) : Prop :=
  t.ramByte (0x100 + s.regs.sp.toNat) = hiByte s.regs.pc ∧
  t.ramByte (0x100 + (s.regs.sp - 1).toNat) = loByte s.regs.pc ∧
  t.ramByte (0x100 + (s.regs.sp - 2).toNat) = pushedP s.regs.p b ∧
  keepsBytes s t
    [some (State.stackLoc s.regs.sp), some (State.stackLoc (s.regs.sp - 1)), some (State.stackLoc (s.regs.sp - 2))] ∧
  t.regs.sp = s.regs.sp - 3 ∧ flag t.regs.p .i = true ∧ keepsFlags s.regs.p t.regs.p [.i] ∧ keepsRegs s t [.sp, .p] ∧
  t.regs.pc = join (s.prgRead (vector.toNat + 1)) (s.prgRead vector.toNat) ∧ t.noPollOnce = true ∧
  { t with
    regs := s.regs, ram := s.ram, openBus := s.openBus, noPollOnce := s.noPollOnce, cycles := s.cycles
    nmiPending := s.nmiPending, nmiConsumedAhead := s.nmiConsumedAhead } = s

/-- `t` is entered through the vector an IRQ or BRK selects (R821): the NMI's when an NMI is asserted or will be within the
window, taking it over, and else its own. -/
def entersSelected (s t : State) (b : Bool) : Prop :=
  (s.nmiPending = true → entersHandler s t b 0xFFFA ∧ t.nmiPending = false ∧ t.nmiConsumedAhead = s.nmiConsumedAhead) ∧
  (s.nmiPending = false → s.nmiEdgeWithin s.params.hijackWindow = true →
    entersHandler s t b 0xFFFA ∧ t.nmiPending = false ∧ t.nmiConsumedAhead = true) ∧
  (s.nmiPending = false → s.nmiEdgeWithin s.params.hijackWindow = false →
    entersHandler s t b 0xFFFE ∧ t.nmiPending = false ∧ t.nmiConsumedAhead = s.nmiConsumedAhead)

/-! ## Decimal digits -/

/-- Both digits of a byte are decimal. -/
def isBcd (b : Byte) : Prop := b.toNat / 16 ≤ 9 ∧ b.toNat % 16 ≤ 9

/-- The number two decimal digits spell. -/
def bcdValue (b : Byte) : Nat := b.toNat / 16 * 10 + b.toNat % 16

/-! ## The invariant -/

/-- Every listed address is below `n`. -/
def Memory.below (m : Memory) (n : Nat) : Bool := m.all (fun c => decide (c.1 < n))

/-- A polynomial in its one form: the last coefficient listed is not 0. -/
def FilterValue.wf (v : FilterValue) : Bool := v.getLast? != some 0

/-- The picture unit: its stores in canonical form and in range, the palette six bits wide (R913), the position in range
(R901), sprite overflow never set (R953). -/
structure Ppu.Inv (p : Ppu) : Prop where
  oam : p.oam.wf ∧ p.oam.below 256
  nt : p.nt.wf ∧ p.nt.below 0x800
  pal : p.pal.wf ∧ p.pal.below 0x20
  palSix : p.pal.all (fun c => decide (c.2.toNat < 0x40))
  dot : p.dot ≤ 340
  scanline : p.scanline ≤ 261
  overflow : p.overflow = false

/-- The sound unit: the noise register is never 0 (R1036), the DMC reads program space alone (R1042, R1046), its bit counter
is 1 to 8 (R1044), the pending sequencer write waits at most 4 ticks (R1000), and the filter's polynomial is in its one form
(log 8). -/
structure Apu.Inv (a : Apu) : Prop where
  lfsr : a.noise.lfsr ≠ 0
  sampleAddr : 0xC000 ≤ a.dmc.sampleAddr.toNat
  curAddr : 0x8000 ≤ a.dmc.curAddr.toNat
  bitsLeft : 1 ≤ a.dmc.bitsLeft.toNat ∧ a.dmc.bitsLeft.toNat ≤ 8
  delay : a.fs.delay ≤ 4
  filter : a.mix.hpPrevOut.wf

/-- The invariant of the machine's states: every memory in canonical form and in range, P normalised (R115, R116), the
serial mapper between writes (R240), the picture and sound units as above, at most two DMA alignment cycles (R124), a
sequencer-write delay the spec allows (R1000), and no device ahead of the processor (R127). -/
structure State.Inv (s : State) : Prop where
  ram : s.ram.wf ∧ s.ram.below 0x800
  sram : s.sram.wf ∧ s.sram.below 0x2000
  prg : s.cart.prg.romWf
  chr : if s.cart.chrBanks = 0 then s.cart.chr.wf ∧ s.cart.chr.below 0x2000 else s.cart.chr.romWf
  status : statusOk s.regs.p
  count : s.mmc1.count < 5
  ppu : s.ppu.Inv
  apu : s.apu.Inv
  align : s.dma.align ≤ 2
  delays : s.params.frameDelayEven ≤ 4 ∧ s.params.frameDelayOdd ≤ 4
  sync : s.lastSync ≤ s.cycles

/-! ## Runs -/

/-- The states `n` steps reach. -/
def stepsTo : Nat → State → State → Prop
  | 0, s, t => t = s
  | n + 1, s, t => ∃ u, step s = .next u ∧ stepsTo n u t

/-- The next call would execute an instruction (R861). -/
def State.runsInstruction (s : State) : Bool :=
  !s.refused && !s.halted && !s.dma.active &&
    (s.noPollOnce || (!s.nmiPending && !(s.apu.irqLine && !s.irqMaskSample)))

/-- The run has ended (R864): halted, refused, or at END_ADDR when an instruction would run. -/
def State.runEnded (s : State) : Bool :=
  s.halted || s.refused || (s.runsInstruction && decide (s.params.endAddr = some s.regs.pc))

/-- The PPU's position as a count of dots from scanline 0, dot 0 (R901). -/
def Ppu.position (p : Ppu) : Nat := p.scanline * 341 + p.dot

end Sys2Proof.Machine
end

