-- ==== Sys2Proof/Certificates/Slice0/Obligations.lean ====
section
/-! DEFINITION. The statements for the provers, in the terms of Sys2Proof/Safety.lean. Each docstring names the rules of
spec/ it formalises, and the log entries it rests on, if any. -/

section Statements
open Sys2Proof Sys2Proof.Machine

/-! ## Encoding -/

/-- Decoding the encoding of a well-formed instruction gives it back, with the bytes that follow (R300, R302, R320). -/
def Obligations.DecodeInvertsEncode : Prop :=
  ∀ (i : Instr) (rest : List Byte), i.wellFormed = true → encode i ≠ [] ∧ decode (encode i ++ rest) = .ok (i, rest)

/-- What the decoder reads from bytes is well-formed and encodes back to those bytes, and it reads an instruction from any
three bytes: no encoding is reserved (R320, R341, R350). -/
def Obligations.EncodeInvertsDecode : Prop :=
  (∀ (bytes : List Byte) (i : Instr) (rest : List Byte), decode bytes = .ok (i, rest) →
    i.wellFormed = true ∧ encode i ++ rest = bytes) ∧
  ∀ b0 b1 b2 : Byte, ∃ i rest, decode [b0, b1, b2] = .ok (i, rest)

/-- Words written out from the table of R320 and the formats of R302 decode to the instructions they stand for. -/
def Obligations.WordsDecodeAsTheTableSays : Prop :=
  decodeTableWord 16 0x55A9 = some (.lda (.imm 0x55)) ∧ decodeTableWord 24 0x1234BD = some (.lda (.abx 0x1234)) ∧
  decodeTableWord 16 0x2091 = some (.sta (.izy 0x20)) ∧ decodeTableWord 8 0x6A = some (.ror .acc) ∧
  decodeTableWord 16 0xFE10 = some (.bpl 0xFE) ∧ decodeTableWord 24 0xC5F54C = some (.jmpAbs 0xC5F5) ∧
  decodeTableWord 24 0x02FF6C = some (.jmpInd 0x02FF) ∧ decodeTableWord 16 0xEA00 = some (.brk 0xEA) ∧
  decodeTableWord 16 0x10B7 = some (.lax (.zpy 0x10)) ∧ decodeTableWord 8 0x02 = some (.jam 0) ∧
  decodeTableWord 24 0x0700FC = some (.nopMemory 5 (.abx 0x0700)) ∧ decodeTableWord 16 0x012B = some (.anc 1 0x01)

/-! ## Addresses and operand access -/

/-- A plain zero-page address is its byte and a plain absolute address its word, uncrossed (R402, R405). Zero-page indexing
wraps within page zero and never crosses; an absolute indexed address is the sum modulo 65536,
`crossed` says that its page is not the base's, and the uncorrected address has the base's page and the sum's low byte. No
of these forms accesses memory for it (R403, R404, R406, R407). -/
def Obligations.IndexedAddressesWrap : Prop :=
  ∀ (b : Byte) (w : Addr) (s : State),
    let zeroPage := fun (o : Operand) (index : Byte) =>
      (s.effAddr o).1.ea.toNat = (b.toNat + index.toNat) % 256 ∧ (s.effAddr o).1.crossed = false ∧ (s.effAddr o).2 = s
    let absolute := fun (o : Operand) (index : Byte) =>
      let e := (s.effAddr o).1
      e.ea.toNat = (w.toNat + index.toNat) % 65536 ∧ (e.crossed = true ↔ e.ea.toNat / 256 ≠ w.toNat / 256) ∧
      e.uncorr.toNat = w.toNat / 256 * 256 + (w.toNat + index.toNat) % 256 ∧ e.base = w ∧ (s.effAddr o).2 = s
    ((s.effAddr (.zp b)).1.ea.toNat = b.toNat ∧ (s.effAddr (.zp b)).1.crossed = false ∧ (s.effAddr (.zp b)).2 = s) ∧
    ((s.effAddr (.abs w)).1.ea = w ∧ (s.effAddr (.abs w)).1.crossed = false ∧ (s.effAddr (.abs w)).2 = s) ∧
    zeroPage (.zpx b) s.regs.x ∧ zeroPage (.zpy b) s.regs.y ∧ absolute (.abx w) s.regs.x ∧ absolute (.aby w) s.regs.y

/-- Zero-page pointers are read within page zero, and the pointer of JMP within its page (R408, R409, R410); the only change
is the open-bus latch, which takes the second byte. The uncorrected address of (zp),Y has its base's page. -/
def Obligations.PointersWrapInTheirPage : Prop :=
  ∀ (b : Byte) (s : State),
    ((s.effAddr (.izx b)).1.ea.toNat =
        256 * (s.ramByte ((b.toNat + s.regs.x.toNat + 1) % 256)).toNat + (s.ramByte ((b.toNat + s.regs.x.toNat) % 256)).toNat ∧
      (s.effAddr (.izx b)).1.crossed = false ∧
      (s.effAddr (.izx b)).2 = s.setOpenBus (s.ramByte ((b.toNat + s.regs.x.toNat + 1) % 256))) ∧
    ((s.effAddr (.izy b)).1.base.toNat =
        256 * (s.ramByte ((b.toNat + 1) % 256)).toNat + (s.ramByte b.toNat).toNat ∧
      (s.effAddr (.izy b)).1.ea.toNat = ((s.effAddr (.izy b)).1.base.toNat + s.regs.y.toNat) % 65536 ∧
      ((s.effAddr (.izy b)).1.crossed = true ↔
        (s.effAddr (.izy b)).1.ea.toNat / 256 ≠ (s.effAddr (.izy b)).1.base.toNat / 256) ∧
      (s.effAddr (.izy b)).1.uncorr.toNat = (s.effAddr (.izy b)).1.base.toNat / 256 * 256 +
        ((s.effAddr (.izy b)).1.base.toNat + s.regs.y.toNat) % 256 ∧
      (s.effAddr (.izy b)).2 = s.setOpenBus (s.ramByte ((b.toNat + 1) % 256))) ∧
    (∀ ptr : Addr, ptr.toNat ≤ 0x1FFF →
      let hi := s.ramByte ((ptr.toNat / 256 * 256 + (ptr.toNat + 1) % 256) % 0x800)
      (s.readIndirect ptr).1.toNat = 256 * hi.toNat + (s.ramByte (ptr.toNat % 0x800)).toNat ∧
      (s.readIndirect ptr).2 = s.setOpenBus hi)

/-- An immediate operand is its byte and the accumulator operand is A, with no access; an operand in memory is the byte at its
address; an indexed one whose index crosses a page reads the uncorrected address first and costs a cycle more, and no other
does (R412, R420). -/
def Obligations.OperandReadsPayForCrossing : Prop :=
  ∀ (o : Operand) (s : State),
    (∀ v, s.readOperand (.imm v) = (v, s)) ∧ s.readOperand .acc = (s.regs.a, s) ∧
    (o ≠ .acc → (∀ v, o ≠ .imm v) →
     let e := (s.effAddr o).1
     let u := (s.effAddr o).2
     (indexedMode o = true ∧ e.crossed = true →
       s.readOperand o = ((u.memRead e.uncorr).2.addCycles 1).memRead e.ea ∧ (s.readOperand o).2.cycles = s.cycles + 1) ∧
     (indexedMode o = false ∨ e.crossed = false →
       s.readOperand o = u.memRead e.ea ∧ (s.readOperand o).2.cycles = s.cycles) ∧
     (e.ea.toNat ≤ 0x1FFF → (s.readOperand o).1 = s.ramByte (e.ea.toNat % 0x800)) ∧
     (s.readOperand o).2.regs = s.regs ∧ keepsBytes s (s.readOperand o).2 [])

/-! ## Loads, stores, transfers -/

/-- LDA, LDX, LDY and LAX load their operand, AND, ORA and EOR combine it with A; N and Z show the result, and nothing else
changes (R450, R451, R452, R710, R507, R508, R509). -/
def Obligations.LoadsAndLogicWriteTheirRegisters : Prop :=
  ∀ (o : Operand) (s : State),
    let m := (s.readOperand o).1
    loadsTo (.lda o) o s [.a] m ∧ loadsTo (.ldx o) o s [.x] m ∧ loadsTo (.ldy o) o s [.y] m ∧
    loadsTo (.lax o) o s [.a, .x] m ∧ loadsTo (.and o) o s [.a] (s.regs.a &&& m) ∧
    loadsTo (.ora o) o s [.a] (s.regs.a ||| m) ∧ loadsTo (.eor o) o s [.a] (s.regs.a ^^^ m)

/-- STA, STX, STY and SAX store A, X, Y and A & X at their address and change nothing else (R453, R454, R455, R711, R422). -/
def Obligations.StoresWriteTheirAddressAlone : Prop :=
  ∀ (o : Operand) (s : State),
    ((Instr.sta o).wellFormed = true → storesTo (.sta o) o s s.regs.a) ∧
    ((Instr.stx o).wellFormed = true → storesTo (.stx o) o s s.regs.x) ∧
    ((Instr.sty o).wellFormed = true → storesTo (.sty o) o s s.regs.y) ∧
    ((Instr.sax o).wellFormed = true → storesTo (.sax o) o s (s.regs.a &&& s.regs.x))

/-- The transfers and the register increments and decrements write their register, N and Z alone, and TXS writes SP and no
flag (R456 to R461, R516 to R519). -/
def Obligations.TransfersAndCountsWriteTheirRegister : Prop :=
  ∀ s : State,
    movesTo .tax s .x s.regs.a ∧ movesTo .tay s .y s.regs.a ∧ movesTo .txa s .a s.regs.x ∧ movesTo .tya s .a s.regs.y ∧
    movesTo .tsx s .x s.regs.sp ∧
    movesTo .inx s .x (BitVec.ofNat 8 (s.regs.x.toNat + 1)) ∧ movesTo .iny s .y (BitVec.ofNat 8 (s.regs.y.toNat + 1)) ∧
    movesTo .dex s .x (BitVec.ofNat 8 (s.regs.x.toNat + 255)) ∧ movesTo .dey s .y (BitVec.ofNat 8 (s.regs.y.toNat + 255)) ∧
    ∃ t, exec .txs s = .next t ∧ t.regs.sp = s.regs.x ∧ keepsRegs s t [.sp] ∧ t.regs.pc = s.regs.pc ∧ sameOutsideRegs s t

/-! ## Arithmetic and logic -/

/-- ADC in binary: the sum modulo 256, C the carry out, V the signed overflow, N and Z the result's (R500, R505). -/
def Obligations.AdcAddsInBinary : Prop :=
  ∀ (o : Operand) (s : State), s.params.decimalMode = false ∨ flag s.regs.p .d = false →
    let a := s.regs.a
    let m := (s.readOperand o).1
    let c := (flag s.regs.p .c).toNat
    ∃ t, exec (.adc o) s = .next t ∧ t.regs.a.toNat = (a.toNat + m.toNat + c) % 256 ∧
      (flag t.regs.p .c = true ↔ 256 ≤ a.toNat + m.toNat + c) ∧
      (flag t.regs.p .v = true ↔ a.toInt + m.toInt + c < -128 ∨ 127 < a.toInt + m.toInt + c) ∧
      showsNZ t.regs.p t.regs.a ∧ keepsFlags s.regs.p t.regs.p [.n, .v, .z, .c] ∧ keepsRegs s t [.a, .p] ∧
      t.regs.pc = s.regs.pc ∧ sameOutsideRegs (s.readOperand o).2 t ∧ keepsBytes s t []

/-- SBC in binary: A - M - (1 - C) modulo 256, C "no borrow", V the signed overflow; $EB is SBC immediate (R506, R704). -/
def Obligations.SbcSubtractsInBinary : Prop :=
  ∀ (o : Operand) (s : State), s.params.decimalMode = false ∨ flag s.regs.p .d = false →
    let a := s.regs.a
    let m := (s.readOperand o).1
    let c := (flag s.regs.p .c).toNat
    ∃ t, exec (.sbc o) s = .next t ∧ (t.regs.a.toNat : Int) = (a.toNat - m.toNat - (1 - c) : Int) % 256 ∧
      (flag t.regs.p .c = true ↔ m.toNat + 1 ≤ a.toNat + c) ∧
      (flag t.regs.p .v = true ↔
        a.toInt - m.toInt - (1 - c) < -128 ∨ 127 < a.toInt - m.toInt - (1 - c)) ∧
      showsNZ t.regs.p t.regs.a ∧ keepsFlags s.regs.p t.regs.p [.n, .v, .z, .c] ∧ keepsRegs s t [.a, .p] ∧
      t.regs.pc = s.regs.pc ∧ sameOutsideRegs (s.readOperand o).2 t ∧ keepsBytes s t [] ∧
      ∀ v, o = .imm v → exec (.sbcUnofficial v) s = .next t

/-- Under DECIMAL_MODE with D set, ADC and SBC go on for every operand, and on decimal digits they add and subtract in
decimal, with Z the binary result's (R502, R505, R506, R704). -/
def Obligations.DecimalModeCountsInDecimal : Prop :=
  ∀ (o : Operand) (s : State), s.params.decimalMode = true → flag s.regs.p .d = true →
    let a := s.regs.a
    let m := (s.readOperand o).1
    let c := (flag s.regs.p .c).toNat
    (∃ t, exec (.adc o) s = .next t ∧ flag t.regs.p .z = decide ((a.toNat + m.toNat + c) % 256 = 0) ∧
      (isBcd a → isBcd m → isBcd t.regs.a ∧ bcdValue t.regs.a = (bcdValue a + bcdValue m + c) % 100 ∧
        (flag t.regs.p .c = true ↔ 100 ≤ bcdValue a + bcdValue m + c)) ∧
      keepsFlags s.regs.p t.regs.p [.n, .v, .z, .c] ∧ keepsRegs s t [.a, .p] ∧ t.regs.pc = s.regs.pc ∧
      sameOutsideRegs (s.readOperand o).2 t ∧ keepsBytes s t []) ∧
    (∃ t, exec (.sbc o) s = .next t ∧ flag t.regs.p .z = decide ((a.toNat + 255 - m.toNat + c) % 256 = 0) ∧
      (flag t.regs.p .c = true ↔ m.toNat + 1 ≤ a.toNat + c) ∧
      (isBcd a → isBcd m → isBcd t.regs.a ∧ bcdValue t.regs.a = (bcdValue a + 99 - bcdValue m + c) % 100) ∧
      keepsFlags s.regs.p t.regs.p [.n, .v, .z, .c] ∧ keepsRegs s t [.a, .p] ∧ t.regs.pc = s.regs.pc ∧
      sameOutsideRegs (s.readOperand o).2 t ∧ keepsBytes s t [] ∧
      ∀ v, o = .imm v → exec (.sbcUnofficial v) s = .next t)

/-- CMP, CPX and CPY compare A, X and Y with the operand, writing C, Z and N alone; BIT takes N and V from the operand and Z
from its and with A, and writes nothing else (R501, R510 to R513). -/
def Obligations.ComparesAndBitWriteFlagsAlone : Prop :=
  ∀ (o : Operand) (s : State),
    let m := (s.readOperand o).1
    comparesTo (.cmp o) o s s.regs.a ∧ comparesTo (.cpx o) o s s.regs.x ∧ comparesTo (.cpy o) o s s.regs.y ∧
    ∃ t, exec (.bit o) s = .next t ∧ flag t.regs.p .n = m.getLsbD 7 ∧ flag t.regs.p .v = m.getLsbD 6 ∧
      flag t.regs.p .z = decide (s.regs.a &&& m = 0) ∧ keepsFlags s.regs.p t.regs.p [.n, .v, .z] ∧ keepsRegs s t [.p] ∧
      t.regs.pc = s.regs.pc ∧ sameOutsideRegs (s.readOperand o).2 t ∧ keepsBytes s t []

/-- INC and DEC rewrite memory modulo 256 and leave C; ASL, LSR, ROL and ROR move one bit position in A or memory, through
C; N and Z show the new byte, V stays (R503, R514, R515, R560 to R564). -/
def Obligations.ModifiesRewriteTheirOperand : Prop :=
  ∀ (o : Operand) (s : State),
    let c := (flag s.regs.p .c).toNat
    let same : Byte → Bool := fun _ => flag s.regs.p .c
    let top : Byte → Bool := fun v => decide (128 ≤ v.toNat)
    let low : Byte → Bool := fun v => decide (v.toNat % 2 = 1)
    ((Instr.inc o).wellFormed = true →
      rewritesTo (.inc o) o s (fun v => BitVec.ofNat 8 (v.toNat + 1)) same ∧
      rewritesTo (.dec o) o s (fun v => BitVec.ofNat 8 (v.toNat + 255)) same) ∧
    ((Instr.asl o).wellFormed = true →
      rewritesTo (.asl o) o s (fun v => BitVec.ofNat 8 (v.toNat * 2)) top ∧
      rewritesTo (.lsr o) o s (fun v => BitVec.ofNat 8 (v.toNat / 2)) low ∧
      rewritesTo (.rol o) o s (fun v => BitVec.ofNat 8 (v.toNat * 2 + c)) top ∧
      rewritesTo (.ror o) o s (fun v => BitVec.ofNat 8 (v.toNat / 2 + 128 * c)) low)

/-- The combined read-modify-write opcodes rewrite memory and then act on A as CMP, SBC, ORA, AND, EOR and ADC do with the new
byte, RRA with the carry its rotate produced (R712 to R717). -/
def Obligations.CombinedOpcodesRewriteThenAct : Prop :=
  ∀ (o : Operand) (s : State), (Instr.dcp o).wellFormed = true →
    let c := (flag s.regs.p .c).toNat
    let same : Byte → Bool := fun _ => flag s.regs.p .c
    let top : Byte → Bool := fun v => decide (128 ≤ v.toNat)
    let low : Byte → Bool := fun v => decide (v.toNat % 2 = 1)
    rewritesThen (.dcp o) o s (fun v => BitVec.ofNat 8 (v.toNat + 255)) same .cmp ∧
    rewritesThen (.isb o) o s (fun v => BitVec.ofNat 8 (v.toNat + 1)) same .sbc ∧
    rewritesThen (.slo o) o s (fun v => BitVec.ofNat 8 (v.toNat * 2)) top .ora ∧
    rewritesThen (.rla o) o s (fun v => BitVec.ofNat 8 (v.toNat * 2 + c)) top .and ∧
    rewritesThen (.sre o) o s (fun v => BitVec.ofNat 8 (v.toNat / 2)) low .eor ∧
    rewritesThen (.rra o) o s (fun v => BitVec.ofNat 8 (v.toNat / 2 + 128 * c)) low .adc

/-! ## Control flow -/

/-- The eight branches branch on their flag, at one cycle or two, and change nothing but PC and `cycles` (R600 to R608). -/
def Obligations.BranchesFollowTheirFlag : Prop :=
  ∀ (off : Byte) (s : State),
    branchesIf (.bpl off) s (!flag s.regs.p .n) off ∧ branchesIf (.bmi off) s (flag s.regs.p .n) off ∧
    branchesIf (.bvc off) s (!flag s.regs.p .v) off ∧ branchesIf (.bvs off) s (flag s.regs.p .v) off ∧
    branchesIf (.bcc off) s (!flag s.regs.p .c) off ∧ branchesIf (.bcs off) s (flag s.regs.p .c) off ∧
    branchesIf (.bne off) s (!flag s.regs.p .z) off ∧ branchesIf (.beq off) s (flag s.regs.p .z) off

/-- JMP goes to its operand, or to the word its pointer names, the second byte from the same page (R610, R611, R410). -/
def Obligations.JumpsSetThePc : Prop :=
  ∀ (w : Addr) (s : State),
    (∃ t, exec (.jmpAbs w) s = .next t ∧ t.regs.pc = w ∧ keepsRegs s t [] ∧ sameOutsideRegs s t) ∧
    (∃ t, exec (.jmpInd w) s = .next t ∧
      (let lo := s.memRead w
       let hi := lo.2.memRead (BitVec.ofNat 16 (w.toNat / 256 * 256 + (w.toNat + 1) % 256))
       t.regs.pc.toNat = 256 * hi.1.toNat + lo.1.toNat ∧ sameOutsideRegs hi.2 t) ∧
      keepsRegs s t [] ∧ keepsBytes s t [])

/-- JSR pushes the address of its last byte, fetches the target's high byte from the bus, after the pushes (R620) or before them
(R284, R331, R400) as the model's `jsrHighFetch` says (log 22), and goes there; PC is that last byte's address when its effect
runs (log 9). -/
def Obligations.JsrPushesItsLastByteAddress : Prop :=
  ∀ (w : Addr) (s : State),
    let late := (s.pushWord s.regs.pc).memRead s.regs.pc
    let early := s.memRead s.regs.pc
    ∃ t, exec (.jsr w) s = .next t ∧
      t.ramByte (0x100 + s.regs.sp.toNat) = hiByte s.regs.pc ∧
      t.ramByte (0x100 + (s.regs.sp - 1).toNat) = loByte s.regs.pc ∧ t.regs.sp = s.regs.sp - 2 ∧
      (s.params.jsrHighFetch = .afterPushes → t.regs.pc = join late.1 (loByte w) ∧ sameOutsideRegs late.2 t) ∧
      (s.params.jsrHighFetch = .beforePushes →
        t.regs.pc = join early.1 (loByte w) ∧ sameOutsideRegs (early.2.pushWord s.regs.pc) t) ∧
      keepsRegs s t [.sp] ∧ t.cycles = s.cycles ∧
      keepsBytes s t [some (State.stackLoc s.regs.sp), some (State.stackLoc (s.regs.sp - 1))]

/-- RTS pulls the low byte then the high byte and adds one; RTI pulls P, with B 0 and U 1, then PC, adding nothing
(R621, R630, R830). -/
def Obligations.ReturnsPullTheStack : Prop :=
  ∀ s : State,
    let byte := fun n : Nat => s.ramByte (0x100 + (s.regs.sp.toNat + n) % 256)
    (∃ t, exec .rts s = .next t ∧ t.regs.pc.toNat = (256 * (byte 2).toNat + (byte 1).toNat + 1) % 65536 ∧
      t.regs.sp = s.regs.sp + 2 ∧ keepsRegs s t [.sp] ∧ sameOutsideRegs (s.setOpenBus (byte 2)) t) ∧
    (∃ t, exec .rti s = .next t ∧ t.regs.pc.toNat = 256 * (byte 3).toNat + (byte 2).toNat ∧
      t.regs.p = (byte 1 &&& 0xCF) ||| 0x20 ∧ t.regs.sp = s.regs.sp + 3 ∧ keepsRegs s t [.sp, .p] ∧
      sameOutsideRegs (s.setOpenBus (byte 3)) t)

/-- A return undoes a call: RTS after JSR goes to the byte after the JSR, RTI after BRK to two bytes after the BRK, with SP and
a normalised P as before (R620, R621, R630, R640). -/
def Obligations.ReturnsUndoCalls : Prop :=
  ∀ (w : Addr) (v : Byte) (s : State),
    (∃ t u, exec (.jsr w) s = .next t ∧ exec .rts t = .next u ∧ u.regs.pc = s.regs.pc + 1 ∧ u.regs.sp = s.regs.sp) ∧
    (statusOk s.regs.p = true →
      ∃ t u, exec (.brk v) s = .next t ∧ exec .rti t = .next u ∧ u.regs = { s.regs with pc := s.regs.pc + 1 })

/-! ## Stack, flags, no operation -/

/-- PHA and PHP push A and P with B and U set; PLA and PLP pull, PLA showing N and Z, PLP with B 0 and U 1
(R430, R431, R650 to R653). -/
def Obligations.StackInstructionsUsePageOne : Prop :=
  ∀ s : State,
    let top := s.ramByte (0x100 + (s.regs.sp.toNat + 1) % 256)
    let pushes := fun (i : Instr) (v : Byte) => ∃ t, exec i s = .next t ∧
      t.ramByte (0x100 + s.regs.sp.toNat) = v ∧ t.regs.sp = s.regs.sp - 1 ∧ keepsRegs s t [.sp] ∧ t.regs.pc = s.regs.pc ∧
      keepsBytes s t [some (State.stackLoc s.regs.sp)] ∧
      { t with regs := s.regs, ram := s.ram, openBus := s.openBus } = s
    pushes .pha s.regs.a ∧ pushes .php (s.regs.p ||| 0x30) ∧
    (∃ t, exec .pla s = .next t ∧ t.regs.a = top ∧ showsNZ t.regs.p top ∧ keepsFlags s.regs.p t.regs.p [.n, .z] ∧
      t.regs.sp = s.regs.sp + 1 ∧ keepsRegs s t [.a, .sp, .p] ∧ t.regs.pc = s.regs.pc ∧
      sameOutsideRegs (s.setOpenBus top) t) ∧
    (∃ t, exec .plp s = .next t ∧ t.regs.p = (top &&& 0xCF) ||| 0x20 ∧ t.regs.sp = s.regs.sp + 1 ∧
      keepsRegs s t [.sp, .p] ∧ t.regs.pc = s.regs.pc ∧ sameOutsideRegs (s.setOpenBus top) t)

/-- PHP then PLP leaves the status word as it was, but for B, normalised to 0, and U, reading 1 (R653, R652). -/
def Obligations.PhpThenPlpRoundTrips : Prop :=
  ∀ s : State, ∃ t u, exec .php s = .next t ∧ exec .plp t = .next u ∧ flag u.regs.p .b = false ∧ flag u.regs.p .u = true ∧
    keepsFlags s.regs.p u.regs.p [.b, .u] ∧ keepsRegs s u [.p]

/-- The flag instructions write their flag alone (R660 to R666). -/
def Obligations.FlagInstructionsWriteOneFlag : Prop :=
  ∀ s : State,
    let sets := fun (i : Instr) (f : Flag) (v : Bool) => ∃ t, exec i s = .next t ∧ flag t.regs.p f = v ∧
      keepsFlags s.regs.p t.regs.p [f] ∧ keepsRegs s t [.p] ∧ t.regs.pc = s.regs.pc ∧ sameOutsideRegs s t
    sets .clc .c false ∧ sets .sec .c true ∧ sets .cli .i false ∧ sets .sei .i true ∧ sets .cld .d false ∧
    sets .sed .d true ∧ sets .clv .v false

/-- NOP and its implied and immediate forms change nothing; its memory forms read their operand and change no register and no
byte (R670, R701, R702, R703). -/
def Obligations.NopsChangeNoRegister : Prop :=
  ∀ (j : Fin 6) (k : Fin 5) (v : Byte) (o : Operand) (s : State),
    exec .nop s = .next s ∧ exec (.nopImplied j) s = .next s ∧ exec (.nopImmediate k v) s = .next s ∧
    ∃ t, exec (.nopMemory j o) s = .next t ∧ t = (s.readOperand o).2 ∧ t.regs = s.regs ∧ keepsBytes s t []

/-! ## The other unofficial opcodes -/

/-- SHA, SHX, SHY and TAS store their value anded with the base's high byte plus one, at the address SH_ADDR_ON_CROSS gives
when the index crosses a page; TAS also sets SP (R720 to R724, log 5). -/
def Obligations.HighAndStores : Prop :=
  ∀ (o : Operand) (s : State),
    let e := (s.effAddr o).1
    let u := ((s.effAddr o).2.memRead e.uncorr).2
    let stores := fun (i : Instr) (reg sp : Byte) =>
      let v := reg &&& BitVec.ofNat 8 (e.base.toNat / 256 + 1)
      let a := if e.crossed = true ∧ s.params.shAddrOnCross = .andHigh then join v (loByte e.ea) else e.ea
      ∃ t, exec i s = .next t ∧ t.regs = { s.regs with sp := sp } ∧ t.cycles = s.cycles ∧
        sameOutsideRegs (u.memWrite a v) t ∧ (∀ l, u.storeLoc a = some l → t.readLoc l = storedByte l v) ∧
        keepsBytes s t [u.storeLoc a]
    ((Instr.sha o).wellFormed = true → stores (.sha o) (s.regs.a &&& s.regs.x) s.regs.sp) ∧
    ((Instr.shx o).wellFormed = true → stores (.shx o) s.regs.x s.regs.sp) ∧
    ((Instr.shy o).wellFormed = true → stores (.shy o) s.regs.y s.regs.sp) ∧
    ((Instr.tas o).wellFormed = true → stores (.tas o) (s.regs.a &&& s.regs.x) (s.regs.a &&& s.regs.x))

/-- The OPEN opcodes with a determined result, under EXTRA_UNOFFICIAL = nmos: ANC, ALR, ARR in binary, AXS
(R771, R772, R773, R777; log 4). -/
def Obligations.OpenOpcodesAsOnNmos : Prop :=
  ∀ (k : Fin 2) (v : Byte) (s : State), s.params.extraUnofficial = .nmos →
    let and := s.regs.a &&& v
    let writesA := fun (i : Instr) (r : Byte) (fs : List Flag) (t : State) =>
      exec i s = .next t ∧ t.regs.a = r ∧ showsNZ t.regs.p r ∧ keepsFlags s.regs.p t.regs.p (.n :: .z :: fs) ∧
        keepsRegs s t [.a, .p] ∧ t.regs.pc = s.regs.pc ∧ sameOutsideRegs s t
    (∃ t, writesA (.anc k v) and [.c] t ∧ flag t.regs.p .c = flag t.regs.p .n) ∧
    (∃ t, writesA (.alr v) (BitVec.ofNat 8 (and.toNat / 2)) [.c] t ∧ flag t.regs.p .c = and.getLsbD 0) ∧
    (s.params.decimalMode = false ∨ flag s.regs.p .d = false →
      ∃ t, writesA (.arr v) (BitVec.ofNat 8 (and.toNat / 2 + 128 * (flag s.regs.p .c).toNat)) [.c, .v] t ∧
        flag t.regs.p .c = t.regs.a.getLsbD 6 ∧ flag t.regs.p .v = (t.regs.a.getLsbD 6 ^^ t.regs.a.getLsbD 5)) ∧
    (∃ t, exec (.axs v) s = .next t ∧
      (t.regs.x.toNat : Int) = ((s.regs.a &&& s.regs.x).toNat - v.toNat : Int) % 256 ∧
      showsNZ t.regs.p t.regs.x ∧ flag t.regs.p .c = decide (v.toNat ≤ (s.regs.a &&& s.regs.x).toNat) ∧
      keepsFlags s.regs.p t.regs.p [.n, .z, .c] ∧ keepsRegs s t [.x, .p] ∧ t.regs.pc = s.regs.pc ∧ sameOutsideRegs s t)

/-- XAA, LXA and LAS under EXTRA_UNOFFICIAL = nmos: XAA and LXA draw one fresh byte, the one `Config.magic` gives the count
of draws, of which nothing is known; LAS ands memory with SP into A, X and SP (R774, R775, R776; log 4, log 6). -/
def Obligations.UnstableOpcodesDrawOneByte : Prop :=
  ∀ (v : Byte) (o : Operand) (s : State), s.params.extraUnofficial = .nmos →
    let m := Config.magic s.draws
    let drew := fun (t : State) => { t with regs := s.regs, draws := s.draws } = s ∧ t.draws = s.draws + 1
    (∃ t, exec (.xaa v) s = .next t ∧ t.regs.a = (s.regs.a ||| m) &&& s.regs.x &&& v ∧ showsNZ t.regs.p t.regs.a ∧
      keepsFlags s.regs.p t.regs.p [.n, .z] ∧ keepsRegs s t [.a, .p] ∧ t.regs.pc = s.regs.pc ∧ drew t) ∧
    (∃ t, exec (.lxa v) s = .next t ∧ t.regs.a = (s.regs.a ||| m) &&& v ∧ t.regs.x = t.regs.a ∧
      showsNZ t.regs.p t.regs.a ∧ keepsFlags s.regs.p t.regs.p [.n, .z] ∧ keepsRegs s t [.a, .x, .p] ∧
      t.regs.pc = s.regs.pc ∧ drew t) ∧
    loadsTo (.las o) o s [.a, .x, .sp] ((s.readOperand o).1 &&& s.regs.sp)

/-- What EXTRA_UNOFFICIAL says of the OPEN opcodes otherwise: refused, which is the default, or halting as JAM; and ARR in
decimal mode is refused (R770, R780, R773). -/
def Obligations.OpenOpcodesAreRefusedOrHalt : Prop :=
  ∀ (k : Fin 2) (v : Byte) (o : Operand) (s : State) (i : Instr),
    i ∈ [.anc k v, .alr v, .arr v, .xaa v, .lxa v, .las o, .axs v] →
      (s.params.extraUnofficial = .refuse ∨ s.params = Params.standard → ∃ m, exec i s = .refused (.openOpcode m)) ∧
      (s.params.extraUnofficial = .jam → exec i s = .next { s with halted := true }) ∧
      (i = .arr v → s.params.extraUnofficial = .nmos → s.params.decimalMode = true → flag s.regs.p .d = true →
        exec i s = .refused .arrDecimal)

/-! ## Halting -/

/-- JAM parks the processor and changes nothing else (R750, R850). -/
def Obligations.JamParksTheProcessor : Prop :=
  ∀ (k : Fin 12) (s : State), ∃ t, exec (.jam k) s = .next t ∧ t.halted = true ∧ { t with halted := s.halted } = s

/-- Every halted state whose devices are level is a fixed point of the step (R850, R864). Under the model's other value of
`jamRefetch` a halted step is the bus read of R861 and nothing else, a fixed point wherever the opcode stands in storage or in
the expansion area and on the bus (log 24). -/
def Obligations.HaltedIsAFixedPoint : Prop :=
  ∀ s : State, s.halted = true → s.refused = false → s.lastSync = s.cycles → s.out = [] →
    (s.params.jamRefetch = .fixedPoint → step s = .next s) ∧
    (s.params.jamRefetch = .busRead →
      step s = .next (s.memRead s.regs.pc).2 ∧
      (State.isStored s.regs.pc = true ∨ (0x4020 ≤ s.regs.pc.toNat ∧ s.regs.pc.toNat ≤ 0x5FFF) →
        s.openBus = s.peek s.regs.pc → step s = .next s))

/-! ## Interrupts -/

/-- The interrupt sequences (R820, R821, R823): P pushed with B clear, I set, 7 cycles; an NMI goes through $FFFA and consumes
the pending edge, an IRQ through the vector `SelectVector` gives. -/
def Obligations.InterruptsEnterTheirHandler : Prop :=
  ∀ s : State,
    let t := s.takeException .nmi
    (entersHandler s t false 0xFFFA ∧ t.nmiPending = false ∧ t.nmiConsumedAhead = s.nmiConsumedAhead ∧
      t.cycles = s.cycles + 7) ∧
    entersSelected s (s.takeException .irq) false ∧ (s.takeException .irq).cycles = s.cycles + 7

/-- BRK (R640, R821, R823): the return address is past the signature byte, B is set in the pushed byte, and its cycles are
its base cost; PC is the signature byte's address when its effect runs (log 9). -/
def Obligations.BrkEntersTheSelectedHandler : Prop :=
  ∀ (v : Byte) (s : State), ∃ t, exec (.brk v) s = .next t ∧
    entersSelected (s.setPc (s.regs.pc + 1)) t true ∧ t.cycles = s.cycles

/-- `NmiEdgeWithin` is what R824 says: advancing the picture unit alone by that many dots would raise the request. -/
def Obligations.HijackWindowForeseesTheEdge : Prop :=
  ∀ (n : Nat) (s : State), s.ppu.dot ≤ 340 → s.ppu.scanline ≤ 261 → s.ppu.nmiRequest = false →
    (s.nmiEdgeWithin n = true ↔ ∃ k, k ≤ 3 * n ∧ (State.ppuTick^[k] s).ppu.nmiRequest = true)

/-- An edge taken ahead is absorbed by the catch-up after the same call, when the window is shorter than the sequence (R824). -/
def Obligations.ConsumedEdgeNeverOutlivesItsCall : Prop :=
  ∀ s t : State, s.Inv → s.params.hijackWindow < 7 → s.nmiConsumedAhead = false → s.lastSync = s.cycles →
    step s = .next t → t.nmiConsumedAhead = false

/-- What a processor call does, in the priority order of R815: DMA, no poll after a sequence, NMI, unmasked IRQ, and else
the next instruction. -/
def Obligations.CallsFollowThePriority : Prop :=
  ∀ s : State, s.refused = false → s.halted = false →
    (s.dma.active = true → s.processorCall = .next s.dmaMicroStep.sampleMask) ∧
    (s.dma.active = false →
      (s.noPollOnce = true → s.processorCall = ({ s with noPollOnce := false } : State).executeInstruction) ∧
      (s.noPollOnce = false →
        (s.nmiPending = true → s.processorCall = .next (s.takeException .nmi).sampleMask) ∧
        (s.nmiPending = false →
          ((s.apu.fs.frameIrq || s.apu.dmcIrq) = true ∧ s.irqMaskSample = false →
            s.processorCall = .next (s.takeException .irq).sampleMask) ∧
          ((s.apu.fs.frameIrq || s.apu.dmcIrq) = false ∨ s.irqMaskSample = true →
            s.processorCall = s.executeInstruction))))

/-- The mask the next poll uses is I before the instruction for CLI, SEI and PLP, and I after it for every other (R121, R811);
a halting opcode counts as any other (log 10). -/
def Obligations.MaskIsSampledOneInstructionLate : Prop :=
  ∀ s t : State, s.executeInstruction = .next t →
    (s.fetchInstr.instr ∈ [.cli, .sei, .plp] → t.irqMaskSample = flag s.regs.p .i) ∧
    (s.fetchInstr.instr ∉ [.cli, .sei, .plp] → t.irqMaskSample = flag t.regs.p .i)

/-- Only SEI, CLI, PLP, RTI and BRK write I, and only SED, CLD, PLP and RTI write D (R113, R114). -/
def Obligations.FewInstructionsWriteIAndD : Prop :=
  ∀ (i : Instr) (s t : State), exec i s = .next t →
    (i ∉ [.sei, .cli, .plp, .rti] → (∀ v, i ≠ .brk v) → flag t.regs.p .i = flag s.regs.p .i) ∧
    (i ∉ [.sed, .cld, .plp, .rti] → flag t.regs.p .d = flag s.regs.p .d)

/-! ## Sprite DMA -/

/-- A sprite DMA, from the write that triggers it, takes 513 cycles when `cycles` is even at the write and 514 when it is odd,
in one alignment step or two and 256 copies; it leaves OAMADDR as it was, and a page of work RAM stands in OAM from OAMADDR on
(R840, R841, R842, R844; which parity takes 514 is the spec's own decision D28). -/
def Obligations.SpriteDmaCopiesAPage : Prop :=
  ∀ (page : Byte) (s : State),
    let start := s.memWrite 0x4014 page
    let calls := 257 + s.cycles % 2
    let t := State.dmaMicroStep^[calls] start
    (∀ k, k < calls → (State.dmaMicroStep^[k] start).dma.active = true) ∧
    t.dma.active = false ∧ t.cycles = s.cycles + 513 + s.cycles % 2 ∧ t.ppu.oamAddr = s.ppu.oamAddr ∧ t.regs = s.regs ∧
    t.ram = s.ram ∧ t.sram = s.sram ∧
    (page.toNat ≤ 0x1F → ∀ i : Byte,
      t.oamByte (s.ppu.oamAddr + i) = s.ramByte ((page.toNat * 256 + i.toNat) % 0x800))

/-! ## The step -/

/-- When the bytes at PC, all in storage, decode to an instruction, the step is its `exec` at the state with the instruction
fetched, then the catch-up: PC past what the fetch reads, the base cycles counted, the last byte fetched on the bus, the mask
sampled and the trace line emitted (R330, R331, R861, R862; log 9). A parked row's `exec` runs at the opcode itself. -/
def Obligations.StepRunsTheDecodedInstruction : Prop :=
  ∀ (s : State) (i : Instr) (rest : List Byte),
    let pc := s.regs.pc
    let row := rowOf (s.peek pc)
    let n := if parks row s.params then 0 else 1 + row.fetches
    let fetched := { s with
      out := [], noPollOnce := false, cycles := s.cycles + (if parks row s.params then 0 else row.base)
      openBus := s.peek (pc + BitVec.ofNat 16 (n - 1)), regs := { s.regs with pc := pc + BitVec.ofNat 16 n } }
    s.runsInstruction = true → State.isStored pc = true → State.isStored (pc + 1) = true → State.isStored (pc + 2) = true →
    decode [s.peek pc, s.peek (pc + 1), s.peek (pc + 2)] = .ok (i, rest) →
      i.wellFormed = true ∧
      (∀ u, exec i fetched = .next u → step s = .next (({ s with out := [] } : State).finishInstr i u).catchUp) ∧
      (∀ r, exec i fetched = .refused r → step s = .refused r)

/-- No step faults; and with the OPEN opcodes given a meaning and decimal mode off, every step of a run not yet refused goes
on (R22, R801, R780). -/
def Obligations.EveryStepGoesOn : Prop :=
  ∀ s : State, (∀ f : Fault, step s ≠ .fault f) ∧
    (s.refused = false → s.params.extraUnofficial ≠ .refuse → s.params.decimalMode = false →
      ∃ t, step s = .next t ∧ t.refused = false)

/-- A step replays exactly the cycles since the last one: three dots and one sound tick for each (R860, R902, R120). -/
def Obligations.DevicesFollowTheCycleCounter : Prop :=
  ∀ s t : State, s.ppu.dot ≤ 340 → s.ppu.scanline ≤ 261 → s.lastSync ≤ s.cycles → step s = .next t →
    s.cycles ≤ t.cycles ∧ t.lastSync = t.cycles ∧
    t.ppu.position = (s.ppu.position + 3 * (t.cycles - s.lastSync)) % 89342 ∧
    t.apu.ticks = s.apu.ticks + (t.cycles - s.lastSync)

/-- A step never changes program ROM, pattern ROM, the rest of the cartridge or the parameters (R226, R232, R15). -/
def Obligations.StepsNeverChangeTheCartridge : Prop :=
  ∀ s t : State, step s = .next t →
    { t.cart with chr := s.cart.chr } = s.cart ∧ (s.cart.chrBanks ≠ 0 → t.cart.chr = s.cart.chr) ∧ t.params = s.params

/-! ## Bus -/

/-- Work RAM is mirrored every 2 KiB: an address below $2000 reaches the byte of its low eleven bits, on reads and writes
(R211, R221). -/
def Obligations.WorkRamIsMirrored : Prop :=
  ∀ (s : State) (a b : Addr) (v : Byte), a.toNat ≤ 0x1FFF → b.toNat ≤ 0x1FFF →
    (s.memRead a).1 = s.ramByte (a.toNat % 0x800) ∧
    ((s.memWrite a v).memRead b).1 = if a.toNat % 0x800 = b.toNat % 0x800 then v else (s.memRead b).1

/-- Every access leaves its byte on the open bus; unmapped reads give it back and unmapped writes do nothing else
(R214, R215, R224). -/
def Obligations.OpenBusHoldsTheLastByte : Prop :=
  ∀ (s : State) (a : Addr) (v : Byte),
    (s.memRead a).2.openBus = (s.memRead a).1 ∧ (s.memWrite a v).openBus = v ∧
    (0x4018 ≤ a.toNat → a.toNat ≤ 0x5FFF → s.memRead a = (s.openBus, s) ∧ s.memWrite a v = { s with openBus := v })

/-- A read has an effect beyond the open-bus latch only at $2002, $2007, their mirrors, $4015 and $4016 (R273, R872). That a
$4017 read has none is the model's reading: it follows R872, where R273 lists $4017 among the reads that shift (log 17). A $4016
read gives one button: with the strobe high the lowest of the snapshot it reloads, with the strobe low the shift register's,
which then shifts a 1 in (R871); bits 7 to 1 are HighBits, as on $4017. A $4016 write sets the strobe and reloads the snapshot
while the strobe is or was high (R870). -/
def Obligations.OnlyFourRegistersHaveReadEffects : Prop :=
  ∀ s : State,
    (∀ a : Addr,
      (0x2000 ≤ a.toNat → a.toNat ≤ 0x3FFF → a.toNat % 8 ≠ 2 ∧ a.toNat % 8 ≠ 7) → a.toNat ≠ 0x4015 → a.toNat ≠ 0x4016 →
        (s.memRead a).2 = { s with openBus := (s.memRead a).1 }) ∧
    let high : Byte := if s.params.controllerHighBits = .openBus then s.openBus &&& 0xE0 else 0
    let held := Config.hostButtons s.cycles
    let r := s.memRead 0x4016
    (s.pad.strobe = true →
      r.1 = high ||| (held &&& 1) ∧ r.2 = { s with openBus := r.1, pad := { buttons := held, shift := held, strobe := true } }) ∧
    (s.pad.strobe = false →
      r.1 = high ||| (s.pad.shift &&& 1) ∧
      r.2 = { s with openBus := r.1, pad := { s.pad with shift := BitVec.ofNat 8 (s.pad.shift.toNat / 2 + 128) } }) ∧
    (s.memRead 0x4017).1 = high ∧
    ∀ v : Byte, s.memWrite 0x4016 v =
      { s with
        openBus := v
        pad := if v.getLsbD 0 = true ∨ s.pad.strobe = true then { buttons := held, shift := held, strobe := v.getLsbD 0 }
          else { s.pad with strobe := false } }

/-- A write to $8000-$FFFF never changes program ROM: mapper 0 ignores it, mapper 1 takes it at its serial port, where bit 7
clears the shift state (R226, R231, R241). -/
def Obligations.ProgramSpaceWritesGoToTheMapper : Prop :=
  ∀ (s : State) (a : Addr) (v : Byte), 0x8000 ≤ a.toNat →
    (s.memWrite a v).cart = s.cart ∧
    (s.cart.mapper = .nrom → s.memWrite a v = { s with openBus := v }) ∧
    (s.cart.mapper = .mmc1 →
      s.memWrite a v =
        { s with openBus := v, mmc1 := s.mmc1.serialWrite s.params.mmc1ResetSetsMode3 a.toNat v } ∧
      (v.getLsbD 7 = true →
        (s.memWrite a v).mmc1.count = 0 ∧ (s.memWrite a v).mmc1.shift = 0 ∧
        { (s.memWrite a v).mmc1 with shift := s.mmc1.shift, count := s.mmc1.count, control := s.mmc1.control } = s.mmc1))

/-- Five serial writes to mapper 1 latch their five low bits, first lowest, into the register bits 14..13 of the fifth address
select, and clear the shift state (R241, R242). -/
def Obligations.FiveSerialWritesLatchARegister : Prop :=
  ∀ (m : Mmc1) (set3 : Bool) (a0 a1 a2 a3 a4 : Nat) (v0 v1 v2 v3 v4 : Byte), m.count = 0 →
    (∀ v ∈ [v0, v1, v2, v3, v4], v.getLsbD 7 = false) →
    let t := ((((m.serialWrite set3 a0 v0).serialWrite set3 a1 v1).serialWrite set3 a2 v2).serialWrite set3 a3 v3).serialWrite
      set3 a4 v4
    let value := BitVec.ofNat 5 ((v0.getLsbD 0).toNat + 2 * (v1.getLsbD 0).toNat + 4 * (v2.getLsbD 0).toNat +
      8 * (v3.getLsbD 0).toNat + 16 * (v4.getLsbD 0).toNat)
    t = { m with
      shift := 0
      count := 0
      control := if a4 / 0x2000 % 4 = 0 then value else m.control
      chr0 := if a4 / 0x2000 % 4 = 1 then value else m.chr0
      chr1 := if a4 / 0x2000 % 4 = 2 then value else m.chr1
      prg := if a4 / 0x2000 % 4 = 3 then value else m.prg }

/-- The program byte an address reaches: mapper 0 mirrors its banks; mapper 1 switches 32 KiB, or 16 KiB with the first bank
fixed low or the last fixed high (R230, R244). -/
def Obligations.ProgramBanksFollowTheMapper : Prop :=
  ∀ (s : State) (a : Nat), 0x8000 ≤ a → a ≤ 0xFFFF → 0 < s.cart.prgBanks →
    let n := s.cart.prgBanks
    let high := decide (0xC000 ≤ a)
    let bank := fun k : Nat => s.prgRead a = s.prgByte (k * 16384 + a % 16384)
    let low4 := s.mmc1.prg.toNat % 16
    (s.cart.mapper = .nrom → n = 1 → bank 0) ∧
    (s.cart.mapper = .nrom → n = 2 → bank (if high then 1 else 0)) ∧
    (s.cart.mapper = .mmc1 →
      (s.mmc1.prgMode ≤ 1 → bank ((low4 / 2 * 2 + (if high then 1 else 0)) % n)) ∧
      (s.mmc1.prgMode = 2 → bank (if high then low4 % n else 0)) ∧
      (s.mmc1.prgMode = 3 → bank (if high then n - 1 else low4 % n)))

/-! ## Picture unit -/

/-- Each tick moves the position by one dot of 89342, and a frame-complete signal is raised each time it wraps: exactly 89342
ticks lie between two of them (R900, R901, R902). -/
def Obligations.FramesAre89342Dots : Prop :=
  ∀ (n : Nat) (s : State), s.ppu.dot ≤ 340 → s.ppu.scanline ≤ 261 →
    let t := State.ppuTick^[n] s
    t.ppu.dot ≤ 340 ∧ t.ppu.scanline ≤ 261 ∧ t.ppu.position = (s.ppu.position + n) % 89342 ∧
    t.out.count .frameComplete = s.out.count .frameComplete + (s.ppu.position + n) / 89342

/-- Vertical blank begins at scanline 241, dot 1, with the NMI request when it is enabled, and ends at scanline 261, dot 1; no
other dot touches the flag or the request (R950, R951, R952, R810). -/
def Obligations.VblankBeginsAndEnds : Prop :=
  ∀ s : State,
    let t := s.ppuTick
    (s.ppu.scanline = 241 ∧ s.ppu.dot = 1 →
      t.ppu.vblank = true ∧ t.ppu.nmiRequest = (s.ppu.nmiRequest || s.ppu.ctrl.getLsbD 7) ∧
      (s.ppu.ctrl.getLsbD 7 = true → s.ppu.nmiRequest = false →
        (s.nmiConsumedAhead = true → t.nmiConsumedAhead = false ∧ t.nmiPending = s.nmiPending) ∧
        (s.nmiConsumedAhead = false → t.nmiConsumedAhead = false ∧ t.nmiPending = true))) ∧
    (s.ppu.scanline = 261 ∧ s.ppu.dot = 1 →
      t.ppu.vblank = false ∧ t.ppu.spriteZero = false ∧ t.ppu.overflow = false ∧ t.ppu.nmiRequest = false) ∧
    (¬ (s.ppu.scanline = 241 ∧ s.ppu.dot = 1) → ¬ (s.ppu.scanline = 261 ∧ s.ppu.dot = 1) →
      t.ppu.vblank = s.ppu.vblank ∧ t.ppu.nmiRequest = s.ppu.nmiRequest ∧ t.nmiPending = s.nmiPending ∧
      t.nmiConsumedAhead = s.nmiConsumedAhead)

/-- The scroll arithmetic on numbers: coarse X counts to 31 and then flips the horizontal nametable; fine Y counts to 7, then
coarse Y to 29 with a vertical flip, or 31 without (R934, R935). And the dots at which a tick does it, on a rendering scanline
with rendering enabled: coarse X where `(dot - 1) mod 8` is 7 in the fetch ranges, Y at dot 256 too, the copies from `t` at dot
257 and at dots 280 to 304 of scanline 261; at no other does a tick change `v` (R930, R936, R937). -/
def Obligations.ScrollCountersWrap : Prop :=
  (∀ v : BitVec 15,
    let cx := v.toNat % 32
    let cy := v.toNat / 32 % 32
    let nx := v.toNat / 1024 % 2
    let ny := v.toNat / 2048 % 2
    let fy := v.toNat / 4096
    let loopy := fun (cx cy nx ny fy : Nat) => cx + 32 * cy + 1024 * nx + 2048 * ny + 4096 * fy
    (incCoarseX v).toNat = (if cx = 31 then loopy 0 cy (1 - nx) ny fy else loopy (cx + 1) cy nx ny fy) ∧
    (incY v).toNat =
      (if fy < 7 then loopy cx cy nx ny (fy + 1)
       else if cy = 29 then loopy cx 0 nx (1 - ny) 0
       else if cy = 31 then loopy cx 0 nx ny 0
       else loopy cx (cy + 1) nx ny 0)) ∧
  ∀ s : State,
    let d := s.ppu.dot
    let v := s.ppu.v
    let t := s.ppuTick
    let renders := (s.ppu.scanline ≤ 239 ∨ s.ppu.scanline = 261) ∧ (s.ppu.mask.getLsbD 3 = true ∨ s.ppu.mask.getLsbD 4 = true)
    let coarse := ((2 ≤ d ∧ d ≤ 257) ∨ (321 ≤ d ∧ d ≤ 337)) ∧ (d - 1) % 8 = 7
    let copiesY := s.ppu.scanline = 261 ∧ 280 ≤ d ∧ d ≤ 304
    t.ppu.t = s.ppu.t ∧
    (renders →
      (coarse → d ≠ 256 → t.ppu.v = incCoarseX v) ∧ (d = 256 → t.ppu.v = incY (incCoarseX v)) ∧
      (d = 257 → t.ppu.v = (v &&& ~~~0x041F#15) ||| (s.ppu.t &&& 0x041F)) ∧
      (copiesY → t.ppu.v = (v &&& ~~~0x7BE0#15) ||| (s.ppu.t &&& 0x7BE0)) ∧
      (¬ coarse → d ≠ 257 → ¬ copiesY → t.ppu.v = v)) ∧
    (¬ renders → t.ppu.v = v)

/-- Two PPUADDR writes and a PPUDATA write, with the toggle clear: the nametable byte at the address holds the byte written,
and `v` and `t` are as R927 and R928 say. -/
def Obligations.PpuDataWritesWherePpuAddrPoints : Prop :=
  ∀ (s : State) (hi lo b : Byte), s.ppu.w = false →
    let a := hi.toNat % 64 * 256 + lo.toNat
    let u := (s.memWrite 0x2006 hi).memWrite 0x2006 lo
    let t := u.memWrite 0x2007 b
    u.ppu.v.toNat = a ∧ u.ppu.t.toNat = a ∧ u.ppu.w = false ∧
    t.ppu.v.toNat = (a + (if s.ppu.ctrl.getLsbD 2 then 32 else 1)) % 0x8000 ∧
    (0x2000 ≤ a → a < 0x3F00 → t.ppuRead a = b) ∧
    (0x3F00 ≤ a → t.ppuRead a = b &&& 0x3F ∧ (a % 32 = 0 → t.ppuRead (a + 16) = b &&& 0x3F)) ∧
    (a < 0x2000 → s.cart.chrBanks ≠ 0 → t.ppuRead a = s.ppuRead a)

/-- A PPUSTATUS read returns the three status bits over the open bus and clears vblank and the toggle; a PPUDATA read below
the palette returns the buffer and refills it, one in the palette returns its entry and fills the buffer from the nametable
below, and each advances `v`; both mirrored every 8 bytes (R212, R922, R927). -/
def Obligations.PpuReadsHaveTheirEffects : Prop :=
  ∀ (s : State) (a : Addr), 0x2000 ≤ a.toNat → a.toNat ≤ 0x3FFF →
    let r := s.memRead a
    (a.toNat % 8 = 2 →
      r.1.getLsbD 7 = s.ppu.vblank ∧ r.1.getLsbD 6 = s.ppu.spriteZero ∧ r.1.getLsbD 5 = s.ppu.overflow ∧
      r.1 &&& 0x1F = s.openBus &&& 0x1F ∧
      r.2 = { s with ppu := { s.ppu with vblank := false, w := false }, openBus := r.1 }) ∧
    (a.toNat % 8 = 7 → s.ppu.v.toNat % 0x4000 < 0x3F00 →
      r.1 = s.ppu.readBuffer ∧ r.2.ppu.readBuffer = s.ppuRead (s.ppu.v.toNat % 0x4000) ∧
      r.2.ppu.v = s.ppu.v + (if s.ppu.ctrl.getLsbD 2 then 32 else 1)) ∧
    (a.toNat % 8 = 7 → 0x3F00 ≤ s.ppu.v.toNat % 0x4000 →
      r.1 = s.ppuRead (s.ppu.v.toNat % 0x4000) ∧ r.2.ppu.readBuffer = s.ppuRead (s.ppu.v.toNat % 0x4000 - 0x1000) ∧
      r.2.ppu.v = s.ppu.v + (if s.ppu.ctrl.getLsbD 2 then 32 else 1))

/-- A tick at dots 1 to 256 of scanlines 0 to 239 emits one pixel, at the dot less one, whose palette entry follows R960: the
backdrop when both layers are transparent, the only opaque layer, or the sprite exactly when it is in front. It sets
sprite-zero hit exactly when entry 0 gives the sprite pixel, the background is opaque, both layers are on and the pixel is not
the 256th (R964). The background pixel is the one after the dot's own shift and fetch (R930). -/
def Obligations.PixelsFollowThePriority : Prop :=
  ∀ s : State, s.ppu.scanline ≤ 239 → 1 ≤ s.ppu.dot → s.ppu.dot ≤ 256 →
    let px := s.ppu.dot - 1
    let py := s.ppu.scanline
    let bg := (s.renderBackground py s.ppu.dot s.ppu.rendering).backgroundPixel px
    let sp := s.spritePixel px py
    let t := s.ppuTick
    let entry := fun a : Nat => t.out = s.out ++
      [.setPixel px py ((s.ppuRead a).setWidth 6) (Config.rgbPalette ((s.ppuRead a).setWidth 6))]
    (t.ppu.spriteZero = true ↔ s.ppu.spriteZero = true ∨
      (bg.1 ≠ 0 ∧ sp ≠ none ∧ sp = s.spriteAt px py 0 ∧ s.ppu.mask.getLsbD 3 = true ∧ s.ppu.mask.getLsbD 4 = true ∧ px ≠ 255)) ∧
    (bg.1 = 0 → sp = none → entry 0x3F00) ∧
    (bg.1 ≠ 0 → sp = none → entry (0x3F00 + bg.2 * 4 + bg.1)) ∧
    (∀ d, sp = some d →
      (bg.1 = 0 ∨ d.behind = false → entry (0x3F00 + d.palette * 4 + d.pattern)) ∧
      (bg.1 ≠ 0 → d.behind = true → entry (0x3F00 + bg.2 * 4 + bg.1)) ∧ d.pattern ≠ 0 ∧ 4 ≤ d.palette ∧ d.palette ≤ 7)

/-! ## Sound unit -/

/-- A $4015 read reports which channels still sound and which interrupts stand, and clears the frame interrupt alone (R1019). -/
def Obligations.StatusReadReportsAndAcknowledges : Prop :=
  ∀ s : State,
    let r := s.memRead 0x4015
    r.1.getLsbD 0 = decide (s.apu.p1.length ≠ 0) ∧ r.1.getLsbD 1 = decide (s.apu.p2.length ≠ 0) ∧
    r.1.getLsbD 2 = decide (s.apu.tri.length ≠ 0) ∧ r.1.getLsbD 3 = decide (s.apu.noise.length ≠ 0) ∧
    r.1.getLsbD 4 = decide (s.apu.dmc.bytesLeft ≠ 0) ∧ r.1.getLsbD 5 = s.openBus.getLsbD 5 ∧
    r.1.getLsbD 6 = s.apu.fs.frameIrq ∧ r.1.getLsbD 7 = s.apu.dmcIrq ∧
    r.2 = { s with apu := { s.apu with fs := { s.apu.fs with frameIrq := false } }, openBus := r.1 }

/-- In 4-step mode, not inhibited, the frame interrupt is first raised at the 29828th sequencer step (R1060, R1064). -/
def Obligations.FrameInterruptAfter29828Steps : Prop :=
  ∀ a : Apu, a.fs.mode = false → a.fs.irqInhibit = false → a.fs.cycle = 0 → a.fs.frameIrq = false →
    ∀ n, n ≤ 29828 → (Apu.frameStep^[n] a).fs.frameIrq = decide (n = 29828)

/-! ## Invariants and power-on -/

/-- The invariant holds at reset. -/
def Obligations.ResetHasTheInvariant : Prop := State.reset.Inv

/-- Every step keeps the invariant: memories canonical and in range, P normalised, the mapper, the devices and the DMA in
range (R115, R116, R240, R901, R953, R1036, R1044, R1046, R124; log 2, log 3 and log 8 for the form of memories, parameters and the
filter's polynomial). -/
def Obligations.StepKeepsTheInvariant : Prop := ∀ s t : State, s.Inv → step s = .next t → t.Inv

/-- A machine powered on from an image has the invariant and every value of R140, PC the reset vector and its high byte on the
open bus, mapper 1 as R240 says and the picture unit at its first dot (R1100, R1101). The trace harness's machine differs from
it in PC, $C000, and in INIT_MEM and INIT_OPEN_BUS, which are zero (R1102, R1105; log 21 for the open bus). -/
def Obligations.PowerOnGivesTheStatedState : Prop :=
  ∀ (img : List Byte) (p : Params) (s : State), p.frameDelayEven ≤ 4 → p.frameDelayOdd ≤ 4 →
    powerOnImage img p = .next s →
      s.Inv ∧ s.regs.a = 0 ∧ s.regs.x = 0 ∧ s.regs.y = 0 ∧ s.regs.sp = 0xFD ∧ s.regs.p = 0x24 ∧
      s.regs.pc = join (s.prgRead 0xFFFD) (s.prgRead 0xFFFC) ∧ s.openBus = s.prgRead 0xFFFD ∧ s.cycles = 7 ∧
      s.irqMaskSample = true ∧ s.nmiPending = false ∧ s.nmiConsumedAhead = false ∧ s.noPollOnce = false ∧
      s.dma.active = false ∧ s.dma.page = 0 ∧ s.dma.offset = 0 ∧ s.dma.align = 0 ∧
      s.halted = false ∧ s.refused = false ∧ s.lastSync = 0 ∧
      s.mmc1 = { shift := 0, count := 0, control := 0x0C, chr0 := 0, chr1 := 0, prg := 0 } ∧ s.ppu.position = 0 ∧
      (let h := State.powerOnTrace (cartOf img) p
       h.regs = { s.regs with pc := 0xC000 } ∧ h.params = p.traceHarness ∧
         { h with regs := s.regs, params := s.params } = s ∧ ∀ i, h.ramByte i = 0)

/-- The load errors of R262 give no machine: a malformed signature, no program bank, another mapper, a trainer, four screens,
a short image, an oversized mapper-0 image; and an image with none of them loads. -/
def Obligations.LoadErrorsGiveNoMachine : Prop :=
  ∀ (img : List Byte) (p : Params),
    (∃ s, powerOnImage img p = .next s) ↔
      img.take 4 = [0x4E, 0x45, 0x53, 0x1A] ∧ imagePrgBanks img ≠ 0 ∧ mapperId img ≤ 1 ∧
      (headerByte img 6).getLsbD 2 = false ∧ (headerByte img 6).getLsbD 3 = false ∧
      16 + 16384 * imagePrgBanks img + 8192 * imageChrBanks img ≤ img.length ∧
      (mapperId img = 0 → imagePrgBanks img ≤ 2 ∧ imageChrBanks img ≤ 1)

end Statements
end

