-- ==== Sys2Proof/Laws/Memory.lean ====
section
/-! SUPPORT. Laws of memories: a read after a write, and that every operation keeps the canonical form and the range. -/

namespace Sys2Proof.Machine.Memory

/-- A rising memory lists nothing below its bound. -/
theorem read?_of_rises {m : Memory} : ∀ {n a : Nat}, risesFrom n m = true → a < n → m.read? a = none := by
  induction m with
  | nil => intros; rfl
  | cons c m ih =>
    obtain ⟨k, b⟩ := c
    intro n a h ha
    simp only [risesFrom, Bool.and_eq_true, decide_eq_true_eq] at h
    have hk : k ≠ a := by omega
    simp only [read?, hk, if_false]
    exact ih h.2 (by omega)

/-- Rising from a bound is rising from every lower bound. -/
theorem risesFrom_mono {m : Memory} {n k : Nat} (h : risesFrom n m = true) (hk : k ≤ n) : risesFrom k m = true := by
  cases m with
  | nil => rfl
  | cons c m =>
    obtain ⟨j, b⟩ := c
    simp only [risesFrom, Bool.and_eq_true, decide_eq_true_eq] at h ⊢
    exact ⟨by omega, h.2⟩

/-- A read after a write to the same address gives the byte written. -/
@[simp] theorem read?_write_same (m : Memory) (a : Nat) (v : Byte) : (m.write a v).read? a = some v := by
  induction m with
  | nil => simp [write, read?]
  | cons c m ih =>
    obtain ⟨k, b⟩ := c
    unfold write
    split
    · simp [read?]
    · split
      · simp [read?]
      · have : k ≠ a := fun h => by simp_all
        simp [read?, this, ih]

/-- A write leaves every other address alone. -/
theorem read?_write_other (m : Memory) {a b : Nat} (v : Byte) (h : b ≠ a) : (m.write a v).read? b = m.read? b := by
  induction m with
  | nil => simp [write, read?, Ne.symm h]
  | cons c m ih =>
    obtain ⟨k, x⟩ := c
    unfold write
    split
    · simp [read?, Ne.symm h]
    · split
      · subst_vars; simp [read?, Ne.symm h]
      · simp only [read?]; split <;> simp [ih]

/-- A write keeps the memory rising. -/
theorem risesFrom_write {m : Memory} : ∀ {n a : Nat} (v : Byte), risesFrom n m = true → n ≤ a →
    risesFrom n (m.write a v) = true := by
  induction m with
  | nil => intro n a v _ h; simpa [write, risesFrom] using h
  | cons c m ih =>
    obtain ⟨k, b⟩ := c
    intro n a v h ha
    simp only [risesFrom, Bool.and_eq_true, decide_eq_true_eq] at h
    unfold write
    split
    · simp only [risesFrom, Bool.and_eq_true, decide_eq_true_eq]
      exact ⟨ha, by omega, h.2⟩
    · split
      · subst_vars
        simp only [risesFrom, Bool.and_eq_true, decide_eq_true_eq]
        exact ⟨ha, h.2⟩
      · simp only [risesFrom, Bool.and_eq_true, decide_eq_true_eq]
        exact ⟨h.1, ih v h.2 (by omega)⟩

/-- A write keeps the canonical form of a RAM. -/
theorem wf_write {m : Memory} (a : Nat) (v : Byte) (h : m.wf = true) : (m.write a v).wf = true :=
  risesFrom_write v h (Nat.zero_le a)

/-- A predicate that holds of every cell holds after a write of a cell it holds of. -/
theorem all_write {m : Memory} {p : Host.Cell → Bool} (a : Nat) (v : Byte) (h : m.all p = true) (hv : p (a, v) = true) :
    (m.write a v).all p = true := by
  induction m with
  | nil => simpa [write] using hv
  | cons c m ih =>
    obtain ⟨k, b⟩ := c
    simp only [List.all_cons, Bool.and_eq_true] at h
    unfold write
    split
    · simp [hv, h.1, h.2]
    · split
      · simp [hv, h.2]
      · simp [h.1, ih h.2]

/-- A write in range keeps the range. -/
theorem below_write {m : Memory} {n a : Nat} (v : Byte) (h : m.below n = true) (ha : a < n) : (m.write a v).below n = true :=
  all_write a v h (by simpa using ha)

/-- Two writes to one address are the second. -/
theorem write_write (m : Memory) (a : Nat) (v w : Byte) : (m.write a v).write a w = m.write a w := by
  induction m with
  | nil => simp [write]
  | cons c m ih =>
    obtain ⟨k, b⟩ := c
    by_cases h1 : a < k
    · simp [write, h1]
    · by_cases h2 : a = k
      · simp [write, h2]
      · simp [write, h1, h2, ih]

/-- Erasing keeps the memory rising. -/
theorem risesFrom_erase {m : Memory} : ∀ {n : Nat} (a : Nat), risesFrom n m = true → risesFrom n (m.erase a) = true := by
  induction m with
  | nil => intros; rfl
  | cons c m ih =>
    obtain ⟨k, b⟩ := c
    intro n a h
    simp only [risesFrom, Bool.and_eq_true, decide_eq_true_eq] at h
    unfold erase
    split
    · exact risesFrom_mono h.2 (by omega)
    · simp only [risesFrom, Bool.and_eq_true, decide_eq_true_eq]
      exact ⟨h.1, ih a h.2⟩

/-- Erasing keeps a predicate of every cell. -/
theorem all_erase {m : Memory} {p : Host.Cell → Bool} (a : Nat) (h : m.all p = true) : (m.erase a).all p = true := by
  induction m with
  | nil => rfl
  | cons c m ih =>
    obtain ⟨k, b⟩ := c
    simp only [List.all_cons, Bool.and_eq_true] at h
    unfold erase
    split
    · exact h.2
    · simp [h.1, ih h.2]

/-- A byte put into a ROM keeps its canonical form. -/
theorem romWf_romWrite {m : Memory} (a : Nat) (v : Byte) (h : m.romWf = true) : (m.romWrite a v).romWf = true := by
  unfold romWf at h ⊢
  simp only [Bool.and_eq_true] at h ⊢
  unfold romWrite
  split
  · exact ⟨risesFrom_erase a h.1, all_erase a h.2⟩
  · exact ⟨wf_write a v h.1, all_write a v h.2 (by simpa using ‹¬ v = 0›)⟩

/-- A ROM made of bytes rises from its first address. -/
theorem risesFrom_romOf (bs : List Byte) : ∀ n, risesFrom n (romOf n bs) = true := by
  induction bs with
  | nil => intro n; rfl
  | cons b bs ih =>
    intro n
    unfold romOf
    split
    · exact risesFrom_mono (ih (n + 1)) (by omega)
    · simp [risesFrom, ih (n + 1)]

/-- A ROM made of bytes lists no $00. -/
theorem all_romOf (bs : List Byte) : ∀ n, (romOf n bs).all (fun c => c.2 != 0) = true := by
  induction bs with
  | nil => intro n; rfl
  | cons b bs ih =>
    intro n
    unfold romOf
    split
    · exact ih (n + 1)
    · simp only [List.all_cons, ih (n + 1), Bool.and_true]
      simpa using ‹¬ b = 0›

/-- A ROM made of bytes is in canonical form. -/
theorem romWf_romOf (bs : List Byte) : (romOf 0 bs).romWf = true := by
  simp only [romWf, Bool.and_eq_true]
  exact ⟨risesFrom_romOf bs 0, all_romOf bs 0⟩

end Sys2Proof.Machine.Memory
end

