-- ==== Sys2Proof/Laws/State.lean ====
section
/-! SUPPORT. What each setter of the state does to each field: one lemma per field per setter, true by definition. -/

namespace Sys2Proof.Machine.State

/-! ## `setA` -/

@[simp] theorem setA_regs (s : State) (v : Byte) : (s.setA v).regs = { s.regs with a := v } := rfl
@[simp] theorem setA_cycles (s : State) (v : Byte) : (s.setA v).cycles = s.cycles := rfl
@[simp] theorem setA_irqMaskSample (s : State) (v : Byte) : (s.setA v).irqMaskSample = s.irqMaskSample := rfl
@[simp] theorem setA_nmiPending (s : State) (v : Byte) : (s.setA v).nmiPending = s.nmiPending := rfl
@[simp] theorem setA_nmiConsumedAhead (s : State) (v : Byte) : (s.setA v).nmiConsumedAhead = s.nmiConsumedAhead := rfl
@[simp] theorem setA_noPollOnce (s : State) (v : Byte) : (s.setA v).noPollOnce = s.noPollOnce := rfl
@[simp] theorem setA_dma (s : State) (v : Byte) : (s.setA v).dma = s.dma := rfl
@[simp] theorem setA_halted (s : State) (v : Byte) : (s.setA v).halted = s.halted := rfl
@[simp] theorem setA_refused (s : State) (v : Byte) : (s.setA v).refused = s.refused := rfl
@[simp] theorem setA_lastSync (s : State) (v : Byte) : (s.setA v).lastSync = s.lastSync := rfl
@[simp] theorem setA_ram (s : State) (v : Byte) : (s.setA v).ram = s.ram := rfl
@[simp] theorem setA_sram (s : State) (v : Byte) : (s.setA v).sram = s.sram := rfl
@[simp] theorem setA_openBus (s : State) (v : Byte) : (s.setA v).openBus = s.openBus := rfl
@[simp] theorem setA_cart (s : State) (v : Byte) : (s.setA v).cart = s.cart := rfl
@[simp] theorem setA_mmc1 (s : State) (v : Byte) : (s.setA v).mmc1 = s.mmc1 := rfl
@[simp] theorem setA_ppu (s : State) (v : Byte) : (s.setA v).ppu = s.ppu := rfl
@[simp] theorem setA_apu (s : State) (v : Byte) : (s.setA v).apu = s.apu := rfl
@[simp] theorem setA_pad (s : State) (v : Byte) : (s.setA v).pad = s.pad := rfl
@[simp] theorem setA_params (s : State) (v : Byte) : (s.setA v).params = s.params := rfl
@[simp] theorem setA_draws (s : State) (v : Byte) : (s.setA v).draws = s.draws := rfl
@[simp] theorem setA_out (s : State) (v : Byte) : (s.setA v).out = s.out := rfl

/-! ## `setX` -/

@[simp] theorem setX_regs (s : State) (v : Byte) : (s.setX v).regs = { s.regs with x := v } := rfl
@[simp] theorem setX_cycles (s : State) (v : Byte) : (s.setX v).cycles = s.cycles := rfl
@[simp] theorem setX_irqMaskSample (s : State) (v : Byte) : (s.setX v).irqMaskSample = s.irqMaskSample := rfl
@[simp] theorem setX_nmiPending (s : State) (v : Byte) : (s.setX v).nmiPending = s.nmiPending := rfl
@[simp] theorem setX_nmiConsumedAhead (s : State) (v : Byte) : (s.setX v).nmiConsumedAhead = s.nmiConsumedAhead := rfl
@[simp] theorem setX_noPollOnce (s : State) (v : Byte) : (s.setX v).noPollOnce = s.noPollOnce := rfl
@[simp] theorem setX_dma (s : State) (v : Byte) : (s.setX v).dma = s.dma := rfl
@[simp] theorem setX_halted (s : State) (v : Byte) : (s.setX v).halted = s.halted := rfl
@[simp] theorem setX_refused (s : State) (v : Byte) : (s.setX v).refused = s.refused := rfl
@[simp] theorem setX_lastSync (s : State) (v : Byte) : (s.setX v).lastSync = s.lastSync := rfl
@[simp] theorem setX_ram (s : State) (v : Byte) : (s.setX v).ram = s.ram := rfl
@[simp] theorem setX_sram (s : State) (v : Byte) : (s.setX v).sram = s.sram := rfl
@[simp] theorem setX_openBus (s : State) (v : Byte) : (s.setX v).openBus = s.openBus := rfl
@[simp] theorem setX_cart (s : State) (v : Byte) : (s.setX v).cart = s.cart := rfl
@[simp] theorem setX_mmc1 (s : State) (v : Byte) : (s.setX v).mmc1 = s.mmc1 := rfl
@[simp] theorem setX_ppu (s : State) (v : Byte) : (s.setX v).ppu = s.ppu := rfl
@[simp] theorem setX_apu (s : State) (v : Byte) : (s.setX v).apu = s.apu := rfl
@[simp] theorem setX_pad (s : State) (v : Byte) : (s.setX v).pad = s.pad := rfl
@[simp] theorem setX_params (s : State) (v : Byte) : (s.setX v).params = s.params := rfl
@[simp] theorem setX_draws (s : State) (v : Byte) : (s.setX v).draws = s.draws := rfl
@[simp] theorem setX_out (s : State) (v : Byte) : (s.setX v).out = s.out := rfl

/-! ## `setY` -/

@[simp] theorem setY_regs (s : State) (v : Byte) : (s.setY v).regs = { s.regs with y := v } := rfl
@[simp] theorem setY_cycles (s : State) (v : Byte) : (s.setY v).cycles = s.cycles := rfl
@[simp] theorem setY_irqMaskSample (s : State) (v : Byte) : (s.setY v).irqMaskSample = s.irqMaskSample := rfl
@[simp] theorem setY_nmiPending (s : State) (v : Byte) : (s.setY v).nmiPending = s.nmiPending := rfl
@[simp] theorem setY_nmiConsumedAhead (s : State) (v : Byte) : (s.setY v).nmiConsumedAhead = s.nmiConsumedAhead := rfl
@[simp] theorem setY_noPollOnce (s : State) (v : Byte) : (s.setY v).noPollOnce = s.noPollOnce := rfl
@[simp] theorem setY_dma (s : State) (v : Byte) : (s.setY v).dma = s.dma := rfl
@[simp] theorem setY_halted (s : State) (v : Byte) : (s.setY v).halted = s.halted := rfl
@[simp] theorem setY_refused (s : State) (v : Byte) : (s.setY v).refused = s.refused := rfl
@[simp] theorem setY_lastSync (s : State) (v : Byte) : (s.setY v).lastSync = s.lastSync := rfl
@[simp] theorem setY_ram (s : State) (v : Byte) : (s.setY v).ram = s.ram := rfl
@[simp] theorem setY_sram (s : State) (v : Byte) : (s.setY v).sram = s.sram := rfl
@[simp] theorem setY_openBus (s : State) (v : Byte) : (s.setY v).openBus = s.openBus := rfl
@[simp] theorem setY_cart (s : State) (v : Byte) : (s.setY v).cart = s.cart := rfl
@[simp] theorem setY_mmc1 (s : State) (v : Byte) : (s.setY v).mmc1 = s.mmc1 := rfl
@[simp] theorem setY_ppu (s : State) (v : Byte) : (s.setY v).ppu = s.ppu := rfl
@[simp] theorem setY_apu (s : State) (v : Byte) : (s.setY v).apu = s.apu := rfl
@[simp] theorem setY_pad (s : State) (v : Byte) : (s.setY v).pad = s.pad := rfl
@[simp] theorem setY_params (s : State) (v : Byte) : (s.setY v).params = s.params := rfl
@[simp] theorem setY_draws (s : State) (v : Byte) : (s.setY v).draws = s.draws := rfl
@[simp] theorem setY_out (s : State) (v : Byte) : (s.setY v).out = s.out := rfl

/-! ## `setSp` -/

@[simp] theorem setSp_regs (s : State) (v : Byte) : (s.setSp v).regs = { s.regs with sp := v } := rfl
@[simp] theorem setSp_cycles (s : State) (v : Byte) : (s.setSp v).cycles = s.cycles := rfl
@[simp] theorem setSp_irqMaskSample (s : State) (v : Byte) : (s.setSp v).irqMaskSample = s.irqMaskSample := rfl
@[simp] theorem setSp_nmiPending (s : State) (v : Byte) : (s.setSp v).nmiPending = s.nmiPending := rfl
@[simp] theorem setSp_nmiConsumedAhead (s : State) (v : Byte) : (s.setSp v).nmiConsumedAhead = s.nmiConsumedAhead := rfl
@[simp] theorem setSp_noPollOnce (s : State) (v : Byte) : (s.setSp v).noPollOnce = s.noPollOnce := rfl
@[simp] theorem setSp_dma (s : State) (v : Byte) : (s.setSp v).dma = s.dma := rfl
@[simp] theorem setSp_halted (s : State) (v : Byte) : (s.setSp v).halted = s.halted := rfl
@[simp] theorem setSp_refused (s : State) (v : Byte) : (s.setSp v).refused = s.refused := rfl
@[simp] theorem setSp_lastSync (s : State) (v : Byte) : (s.setSp v).lastSync = s.lastSync := rfl
@[simp] theorem setSp_ram (s : State) (v : Byte) : (s.setSp v).ram = s.ram := rfl
@[simp] theorem setSp_sram (s : State) (v : Byte) : (s.setSp v).sram = s.sram := rfl
@[simp] theorem setSp_openBus (s : State) (v : Byte) : (s.setSp v).openBus = s.openBus := rfl
@[simp] theorem setSp_cart (s : State) (v : Byte) : (s.setSp v).cart = s.cart := rfl
@[simp] theorem setSp_mmc1 (s : State) (v : Byte) : (s.setSp v).mmc1 = s.mmc1 := rfl
@[simp] theorem setSp_ppu (s : State) (v : Byte) : (s.setSp v).ppu = s.ppu := rfl
@[simp] theorem setSp_apu (s : State) (v : Byte) : (s.setSp v).apu = s.apu := rfl
@[simp] theorem setSp_pad (s : State) (v : Byte) : (s.setSp v).pad = s.pad := rfl
@[simp] theorem setSp_params (s : State) (v : Byte) : (s.setSp v).params = s.params := rfl
@[simp] theorem setSp_draws (s : State) (v : Byte) : (s.setSp v).draws = s.draws := rfl
@[simp] theorem setSp_out (s : State) (v : Byte) : (s.setSp v).out = s.out := rfl

/-! ## `setP` -/

@[simp] theorem setP_regs (s : State) (v : Byte) : (s.setP v).regs = { s.regs with p := v } := rfl
@[simp] theorem setP_cycles (s : State) (v : Byte) : (s.setP v).cycles = s.cycles := rfl
@[simp] theorem setP_irqMaskSample (s : State) (v : Byte) : (s.setP v).irqMaskSample = s.irqMaskSample := rfl
@[simp] theorem setP_nmiPending (s : State) (v : Byte) : (s.setP v).nmiPending = s.nmiPending := rfl
@[simp] theorem setP_nmiConsumedAhead (s : State) (v : Byte) : (s.setP v).nmiConsumedAhead = s.nmiConsumedAhead := rfl
@[simp] theorem setP_noPollOnce (s : State) (v : Byte) : (s.setP v).noPollOnce = s.noPollOnce := rfl
@[simp] theorem setP_dma (s : State) (v : Byte) : (s.setP v).dma = s.dma := rfl
@[simp] theorem setP_halted (s : State) (v : Byte) : (s.setP v).halted = s.halted := rfl
@[simp] theorem setP_refused (s : State) (v : Byte) : (s.setP v).refused = s.refused := rfl
@[simp] theorem setP_lastSync (s : State) (v : Byte) : (s.setP v).lastSync = s.lastSync := rfl
@[simp] theorem setP_ram (s : State) (v : Byte) : (s.setP v).ram = s.ram := rfl
@[simp] theorem setP_sram (s : State) (v : Byte) : (s.setP v).sram = s.sram := rfl
@[simp] theorem setP_openBus (s : State) (v : Byte) : (s.setP v).openBus = s.openBus := rfl
@[simp] theorem setP_cart (s : State) (v : Byte) : (s.setP v).cart = s.cart := rfl
@[simp] theorem setP_mmc1 (s : State) (v : Byte) : (s.setP v).mmc1 = s.mmc1 := rfl
@[simp] theorem setP_ppu (s : State) (v : Byte) : (s.setP v).ppu = s.ppu := rfl
@[simp] theorem setP_apu (s : State) (v : Byte) : (s.setP v).apu = s.apu := rfl
@[simp] theorem setP_pad (s : State) (v : Byte) : (s.setP v).pad = s.pad := rfl
@[simp] theorem setP_params (s : State) (v : Byte) : (s.setP v).params = s.params := rfl
@[simp] theorem setP_draws (s : State) (v : Byte) : (s.setP v).draws = s.draws := rfl
@[simp] theorem setP_out (s : State) (v : Byte) : (s.setP v).out = s.out := rfl

/-! ## `setPc` -/

@[simp] theorem setPc_regs (s : State) (v : Addr) : (s.setPc v).regs = { s.regs with pc := v } := rfl
@[simp] theorem setPc_cycles (s : State) (v : Addr) : (s.setPc v).cycles = s.cycles := rfl
@[simp] theorem setPc_irqMaskSample (s : State) (v : Addr) : (s.setPc v).irqMaskSample = s.irqMaskSample := rfl
@[simp] theorem setPc_nmiPending (s : State) (v : Addr) : (s.setPc v).nmiPending = s.nmiPending := rfl
@[simp] theorem setPc_nmiConsumedAhead (s : State) (v : Addr) : (s.setPc v).nmiConsumedAhead = s.nmiConsumedAhead := rfl
@[simp] theorem setPc_noPollOnce (s : State) (v : Addr) : (s.setPc v).noPollOnce = s.noPollOnce := rfl
@[simp] theorem setPc_dma (s : State) (v : Addr) : (s.setPc v).dma = s.dma := rfl
@[simp] theorem setPc_halted (s : State) (v : Addr) : (s.setPc v).halted = s.halted := rfl
@[simp] theorem setPc_refused (s : State) (v : Addr) : (s.setPc v).refused = s.refused := rfl
@[simp] theorem setPc_lastSync (s : State) (v : Addr) : (s.setPc v).lastSync = s.lastSync := rfl
@[simp] theorem setPc_ram (s : State) (v : Addr) : (s.setPc v).ram = s.ram := rfl
@[simp] theorem setPc_sram (s : State) (v : Addr) : (s.setPc v).sram = s.sram := rfl
@[simp] theorem setPc_openBus (s : State) (v : Addr) : (s.setPc v).openBus = s.openBus := rfl
@[simp] theorem setPc_cart (s : State) (v : Addr) : (s.setPc v).cart = s.cart := rfl
@[simp] theorem setPc_mmc1 (s : State) (v : Addr) : (s.setPc v).mmc1 = s.mmc1 := rfl
@[simp] theorem setPc_ppu (s : State) (v : Addr) : (s.setPc v).ppu = s.ppu := rfl
@[simp] theorem setPc_apu (s : State) (v : Addr) : (s.setPc v).apu = s.apu := rfl
@[simp] theorem setPc_pad (s : State) (v : Addr) : (s.setPc v).pad = s.pad := rfl
@[simp] theorem setPc_params (s : State) (v : Addr) : (s.setPc v).params = s.params := rfl
@[simp] theorem setPc_draws (s : State) (v : Addr) : (s.setPc v).draws = s.draws := rfl
@[simp] theorem setPc_out (s : State) (v : Addr) : (s.setPc v).out = s.out := rfl

/-! ## `addCycles` -/

@[simp] theorem addCycles_regs (s : State) (n : Nat) : (s.addCycles n).regs = s.regs := rfl
@[simp] theorem addCycles_cycles (s : State) (n : Nat) : (s.addCycles n).cycles = s.cycles + n := rfl
@[simp] theorem addCycles_irqMaskSample (s : State) (n : Nat) : (s.addCycles n).irqMaskSample = s.irqMaskSample := rfl
@[simp] theorem addCycles_nmiPending (s : State) (n : Nat) : (s.addCycles n).nmiPending = s.nmiPending := rfl
@[simp] theorem addCycles_nmiConsumedAhead (s : State) (n : Nat) : (s.addCycles n).nmiConsumedAhead = s.nmiConsumedAhead := rfl
@[simp] theorem addCycles_noPollOnce (s : State) (n : Nat) : (s.addCycles n).noPollOnce = s.noPollOnce := rfl
@[simp] theorem addCycles_dma (s : State) (n : Nat) : (s.addCycles n).dma = s.dma := rfl
@[simp] theorem addCycles_halted (s : State) (n : Nat) : (s.addCycles n).halted = s.halted := rfl
@[simp] theorem addCycles_refused (s : State) (n : Nat) : (s.addCycles n).refused = s.refused := rfl
@[simp] theorem addCycles_lastSync (s : State) (n : Nat) : (s.addCycles n).lastSync = s.lastSync := rfl
@[simp] theorem addCycles_ram (s : State) (n : Nat) : (s.addCycles n).ram = s.ram := rfl
@[simp] theorem addCycles_sram (s : State) (n : Nat) : (s.addCycles n).sram = s.sram := rfl
@[simp] theorem addCycles_openBus (s : State) (n : Nat) : (s.addCycles n).openBus = s.openBus := rfl
@[simp] theorem addCycles_cart (s : State) (n : Nat) : (s.addCycles n).cart = s.cart := rfl
@[simp] theorem addCycles_mmc1 (s : State) (n : Nat) : (s.addCycles n).mmc1 = s.mmc1 := rfl
@[simp] theorem addCycles_ppu (s : State) (n : Nat) : (s.addCycles n).ppu = s.ppu := rfl
@[simp] theorem addCycles_apu (s : State) (n : Nat) : (s.addCycles n).apu = s.apu := rfl
@[simp] theorem addCycles_pad (s : State) (n : Nat) : (s.addCycles n).pad = s.pad := rfl
@[simp] theorem addCycles_params (s : State) (n : Nat) : (s.addCycles n).params = s.params := rfl
@[simp] theorem addCycles_draws (s : State) (n : Nat) : (s.addCycles n).draws = s.draws := rfl
@[simp] theorem addCycles_out (s : State) (n : Nat) : (s.addCycles n).out = s.out := rfl

/-! ## `setOpenBus` -/

@[simp] theorem setOpenBus_regs (s : State) (v : Byte) : (s.setOpenBus v).regs = s.regs := rfl
@[simp] theorem setOpenBus_cycles (s : State) (v : Byte) : (s.setOpenBus v).cycles = s.cycles := rfl
@[simp] theorem setOpenBus_irqMaskSample (s : State) (v : Byte) : (s.setOpenBus v).irqMaskSample = s.irqMaskSample := rfl
@[simp] theorem setOpenBus_nmiPending (s : State) (v : Byte) : (s.setOpenBus v).nmiPending = s.nmiPending := rfl
@[simp] theorem setOpenBus_nmiConsumedAhead (s : State) (v : Byte) : (s.setOpenBus v).nmiConsumedAhead = s.nmiConsumedAhead := rfl
@[simp] theorem setOpenBus_noPollOnce (s : State) (v : Byte) : (s.setOpenBus v).noPollOnce = s.noPollOnce := rfl
@[simp] theorem setOpenBus_dma (s : State) (v : Byte) : (s.setOpenBus v).dma = s.dma := rfl
@[simp] theorem setOpenBus_halted (s : State) (v : Byte) : (s.setOpenBus v).halted = s.halted := rfl
@[simp] theorem setOpenBus_refused (s : State) (v : Byte) : (s.setOpenBus v).refused = s.refused := rfl
@[simp] theorem setOpenBus_lastSync (s : State) (v : Byte) : (s.setOpenBus v).lastSync = s.lastSync := rfl
@[simp] theorem setOpenBus_ram (s : State) (v : Byte) : (s.setOpenBus v).ram = s.ram := rfl
@[simp] theorem setOpenBus_sram (s : State) (v : Byte) : (s.setOpenBus v).sram = s.sram := rfl
@[simp] theorem setOpenBus_openBus (s : State) (v : Byte) : (s.setOpenBus v).openBus = v := rfl
@[simp] theorem setOpenBus_cart (s : State) (v : Byte) : (s.setOpenBus v).cart = s.cart := rfl
@[simp] theorem setOpenBus_mmc1 (s : State) (v : Byte) : (s.setOpenBus v).mmc1 = s.mmc1 := rfl
@[simp] theorem setOpenBus_ppu (s : State) (v : Byte) : (s.setOpenBus v).ppu = s.ppu := rfl
@[simp] theorem setOpenBus_apu (s : State) (v : Byte) : (s.setOpenBus v).apu = s.apu := rfl
@[simp] theorem setOpenBus_pad (s : State) (v : Byte) : (s.setOpenBus v).pad = s.pad := rfl
@[simp] theorem setOpenBus_params (s : State) (v : Byte) : (s.setOpenBus v).params = s.params := rfl
@[simp] theorem setOpenBus_draws (s : State) (v : Byte) : (s.setOpenBus v).draws = s.draws := rfl
@[simp] theorem setOpenBus_out (s : State) (v : Byte) : (s.setOpenBus v).out = s.out := rfl

/-! ## `emit` -/

@[simp] theorem emit_regs (s : State) (e : HostEvent) : (s.emit e).regs = s.regs := rfl
@[simp] theorem emit_cycles (s : State) (e : HostEvent) : (s.emit e).cycles = s.cycles := rfl
@[simp] theorem emit_irqMaskSample (s : State) (e : HostEvent) : (s.emit e).irqMaskSample = s.irqMaskSample := rfl
@[simp] theorem emit_nmiPending (s : State) (e : HostEvent) : (s.emit e).nmiPending = s.nmiPending := rfl
@[simp] theorem emit_nmiConsumedAhead (s : State) (e : HostEvent) : (s.emit e).nmiConsumedAhead = s.nmiConsumedAhead := rfl
@[simp] theorem emit_noPollOnce (s : State) (e : HostEvent) : (s.emit e).noPollOnce = s.noPollOnce := rfl
@[simp] theorem emit_dma (s : State) (e : HostEvent) : (s.emit e).dma = s.dma := rfl
@[simp] theorem emit_halted (s : State) (e : HostEvent) : (s.emit e).halted = s.halted := rfl
@[simp] theorem emit_refused (s : State) (e : HostEvent) : (s.emit e).refused = s.refused := rfl
@[simp] theorem emit_lastSync (s : State) (e : HostEvent) : (s.emit e).lastSync = s.lastSync := rfl
@[simp] theorem emit_ram (s : State) (e : HostEvent) : (s.emit e).ram = s.ram := rfl
@[simp] theorem emit_sram (s : State) (e : HostEvent) : (s.emit e).sram = s.sram := rfl
@[simp] theorem emit_openBus (s : State) (e : HostEvent) : (s.emit e).openBus = s.openBus := rfl
@[simp] theorem emit_cart (s : State) (e : HostEvent) : (s.emit e).cart = s.cart := rfl
@[simp] theorem emit_mmc1 (s : State) (e : HostEvent) : (s.emit e).mmc1 = s.mmc1 := rfl
@[simp] theorem emit_ppu (s : State) (e : HostEvent) : (s.emit e).ppu = s.ppu := rfl
@[simp] theorem emit_apu (s : State) (e : HostEvent) : (s.emit e).apu = s.apu := rfl
@[simp] theorem emit_pad (s : State) (e : HostEvent) : (s.emit e).pad = s.pad := rfl
@[simp] theorem emit_params (s : State) (e : HostEvent) : (s.emit e).params = s.params := rfl
@[simp] theorem emit_draws (s : State) (e : HostEvent) : (s.emit e).draws = s.draws := rfl
@[simp] theorem emit_out (s : State) (e : HostEvent) : (s.emit e).out = s.out ++ [e] := rfl

/-! ## `setPpu` -/

@[simp] theorem setPpu_regs (s : State) (p : Ppu) : (s.setPpu p).regs = s.regs := rfl
@[simp] theorem setPpu_cycles (s : State) (p : Ppu) : (s.setPpu p).cycles = s.cycles := rfl
@[simp] theorem setPpu_irqMaskSample (s : State) (p : Ppu) : (s.setPpu p).irqMaskSample = s.irqMaskSample := rfl
@[simp] theorem setPpu_nmiPending (s : State) (p : Ppu) : (s.setPpu p).nmiPending = s.nmiPending := rfl
@[simp] theorem setPpu_nmiConsumedAhead (s : State) (p : Ppu) : (s.setPpu p).nmiConsumedAhead = s.nmiConsumedAhead := rfl
@[simp] theorem setPpu_noPollOnce (s : State) (p : Ppu) : (s.setPpu p).noPollOnce = s.noPollOnce := rfl
@[simp] theorem setPpu_dma (s : State) (p : Ppu) : (s.setPpu p).dma = s.dma := rfl
@[simp] theorem setPpu_halted (s : State) (p : Ppu) : (s.setPpu p).halted = s.halted := rfl
@[simp] theorem setPpu_refused (s : State) (p : Ppu) : (s.setPpu p).refused = s.refused := rfl
@[simp] theorem setPpu_lastSync (s : State) (p : Ppu) : (s.setPpu p).lastSync = s.lastSync := rfl
@[simp] theorem setPpu_ram (s : State) (p : Ppu) : (s.setPpu p).ram = s.ram := rfl
@[simp] theorem setPpu_sram (s : State) (p : Ppu) : (s.setPpu p).sram = s.sram := rfl
@[simp] theorem setPpu_openBus (s : State) (p : Ppu) : (s.setPpu p).openBus = s.openBus := rfl
@[simp] theorem setPpu_cart (s : State) (p : Ppu) : (s.setPpu p).cart = s.cart := rfl
@[simp] theorem setPpu_mmc1 (s : State) (p : Ppu) : (s.setPpu p).mmc1 = s.mmc1 := rfl
@[simp] theorem setPpu_ppu (s : State) (p : Ppu) : (s.setPpu p).ppu = p := rfl
@[simp] theorem setPpu_apu (s : State) (p : Ppu) : (s.setPpu p).apu = s.apu := rfl
@[simp] theorem setPpu_pad (s : State) (p : Ppu) : (s.setPpu p).pad = s.pad := rfl
@[simp] theorem setPpu_params (s : State) (p : Ppu) : (s.setPpu p).params = s.params := rfl
@[simp] theorem setPpu_draws (s : State) (p : Ppu) : (s.setPpu p).draws = s.draws := rfl
@[simp] theorem setPpu_out (s : State) (p : Ppu) : (s.setPpu p).out = s.out := rfl

/-! ## `setApu` -/

@[simp] theorem setApu_regs (s : State) (a : Apu) : (s.setApu a).regs = s.regs := rfl
@[simp] theorem setApu_cycles (s : State) (a : Apu) : (s.setApu a).cycles = s.cycles := rfl
@[simp] theorem setApu_irqMaskSample (s : State) (a : Apu) : (s.setApu a).irqMaskSample = s.irqMaskSample := rfl
@[simp] theorem setApu_nmiPending (s : State) (a : Apu) : (s.setApu a).nmiPending = s.nmiPending := rfl
@[simp] theorem setApu_nmiConsumedAhead (s : State) (a : Apu) : (s.setApu a).nmiConsumedAhead = s.nmiConsumedAhead := rfl
@[simp] theorem setApu_noPollOnce (s : State) (a : Apu) : (s.setApu a).noPollOnce = s.noPollOnce := rfl
@[simp] theorem setApu_dma (s : State) (a : Apu) : (s.setApu a).dma = s.dma := rfl
@[simp] theorem setApu_halted (s : State) (a : Apu) : (s.setApu a).halted = s.halted := rfl
@[simp] theorem setApu_refused (s : State) (a : Apu) : (s.setApu a).refused = s.refused := rfl
@[simp] theorem setApu_lastSync (s : State) (a : Apu) : (s.setApu a).lastSync = s.lastSync := rfl
@[simp] theorem setApu_ram (s : State) (a : Apu) : (s.setApu a).ram = s.ram := rfl
@[simp] theorem setApu_sram (s : State) (a : Apu) : (s.setApu a).sram = s.sram := rfl
@[simp] theorem setApu_openBus (s : State) (a : Apu) : (s.setApu a).openBus = s.openBus := rfl
@[simp] theorem setApu_cart (s : State) (a : Apu) : (s.setApu a).cart = s.cart := rfl
@[simp] theorem setApu_mmc1 (s : State) (a : Apu) : (s.setApu a).mmc1 = s.mmc1 := rfl
@[simp] theorem setApu_ppu (s : State) (a : Apu) : (s.setApu a).ppu = s.ppu := rfl
@[simp] theorem setApu_apu (s : State) (a : Apu) : (s.setApu a).apu = a := rfl
@[simp] theorem setApu_pad (s : State) (a : Apu) : (s.setApu a).pad = s.pad := rfl
@[simp] theorem setApu_params (s : State) (a : Apu) : (s.setApu a).params = s.params := rfl
@[simp] theorem setApu_draws (s : State) (a : Apu) : (s.setApu a).draws = s.draws := rfl
@[simp] theorem setApu_out (s : State) (a : Apu) : (s.setApu a).out = s.out := rfl

/-! ## `setRam` -/

@[simp] theorem setRam_regs (s : State) (i : Nat) (v : Byte) : (s.setRam i v).regs = s.regs := rfl
@[simp] theorem setRam_cycles (s : State) (i : Nat) (v : Byte) : (s.setRam i v).cycles = s.cycles := rfl
@[simp] theorem setRam_irqMaskSample (s : State) (i : Nat) (v : Byte) : (s.setRam i v).irqMaskSample = s.irqMaskSample := rfl
@[simp] theorem setRam_nmiPending (s : State) (i : Nat) (v : Byte) : (s.setRam i v).nmiPending = s.nmiPending := rfl
@[simp] theorem setRam_nmiConsumedAhead (s : State) (i : Nat) (v : Byte) : (s.setRam i v).nmiConsumedAhead = s.nmiConsumedAhead := rfl
@[simp] theorem setRam_noPollOnce (s : State) (i : Nat) (v : Byte) : (s.setRam i v).noPollOnce = s.noPollOnce := rfl
@[simp] theorem setRam_dma (s : State) (i : Nat) (v : Byte) : (s.setRam i v).dma = s.dma := rfl
@[simp] theorem setRam_halted (s : State) (i : Nat) (v : Byte) : (s.setRam i v).halted = s.halted := rfl
@[simp] theorem setRam_refused (s : State) (i : Nat) (v : Byte) : (s.setRam i v).refused = s.refused := rfl
@[simp] theorem setRam_lastSync (s : State) (i : Nat) (v : Byte) : (s.setRam i v).lastSync = s.lastSync := rfl
@[simp] theorem setRam_ram (s : State) (i : Nat) (v : Byte) : (s.setRam i v).ram = s.ram.write i v := rfl
@[simp] theorem setRam_sram (s : State) (i : Nat) (v : Byte) : (s.setRam i v).sram = s.sram := rfl
@[simp] theorem setRam_openBus (s : State) (i : Nat) (v : Byte) : (s.setRam i v).openBus = s.openBus := rfl
@[simp] theorem setRam_cart (s : State) (i : Nat) (v : Byte) : (s.setRam i v).cart = s.cart := rfl
@[simp] theorem setRam_mmc1 (s : State) (i : Nat) (v : Byte) : (s.setRam i v).mmc1 = s.mmc1 := rfl
@[simp] theorem setRam_ppu (s : State) (i : Nat) (v : Byte) : (s.setRam i v).ppu = s.ppu := rfl
@[simp] theorem setRam_apu (s : State) (i : Nat) (v : Byte) : (s.setRam i v).apu = s.apu := rfl
@[simp] theorem setRam_pad (s : State) (i : Nat) (v : Byte) : (s.setRam i v).pad = s.pad := rfl
@[simp] theorem setRam_params (s : State) (i : Nat) (v : Byte) : (s.setRam i v).params = s.params := rfl
@[simp] theorem setRam_draws (s : State) (i : Nat) (v : Byte) : (s.setRam i v).draws = s.draws := rfl
@[simp] theorem setRam_out (s : State) (i : Nat) (v : Byte) : (s.setRam i v).out = s.out := rfl

/-! ## `setSram` -/

@[simp] theorem setSram_regs (s : State) (i : Nat) (v : Byte) : (s.setSram i v).regs = s.regs := rfl
@[simp] theorem setSram_cycles (s : State) (i : Nat) (v : Byte) : (s.setSram i v).cycles = s.cycles := rfl
@[simp] theorem setSram_irqMaskSample (s : State) (i : Nat) (v : Byte) : (s.setSram i v).irqMaskSample = s.irqMaskSample := rfl
@[simp] theorem setSram_nmiPending (s : State) (i : Nat) (v : Byte) : (s.setSram i v).nmiPending = s.nmiPending := rfl
@[simp] theorem setSram_nmiConsumedAhead (s : State) (i : Nat) (v : Byte) : (s.setSram i v).nmiConsumedAhead = s.nmiConsumedAhead := rfl
@[simp] theorem setSram_noPollOnce (s : State) (i : Nat) (v : Byte) : (s.setSram i v).noPollOnce = s.noPollOnce := rfl
@[simp] theorem setSram_dma (s : State) (i : Nat) (v : Byte) : (s.setSram i v).dma = s.dma := rfl
@[simp] theorem setSram_halted (s : State) (i : Nat) (v : Byte) : (s.setSram i v).halted = s.halted := rfl
@[simp] theorem setSram_refused (s : State) (i : Nat) (v : Byte) : (s.setSram i v).refused = s.refused := rfl
@[simp] theorem setSram_lastSync (s : State) (i : Nat) (v : Byte) : (s.setSram i v).lastSync = s.lastSync := rfl
@[simp] theorem setSram_ram (s : State) (i : Nat) (v : Byte) : (s.setSram i v).ram = s.ram := rfl
@[simp] theorem setSram_sram (s : State) (i : Nat) (v : Byte) : (s.setSram i v).sram = s.sram.write i v := rfl
@[simp] theorem setSram_openBus (s : State) (i : Nat) (v : Byte) : (s.setSram i v).openBus = s.openBus := rfl
@[simp] theorem setSram_cart (s : State) (i : Nat) (v : Byte) : (s.setSram i v).cart = s.cart := rfl
@[simp] theorem setSram_mmc1 (s : State) (i : Nat) (v : Byte) : (s.setSram i v).mmc1 = s.mmc1 := rfl
@[simp] theorem setSram_ppu (s : State) (i : Nat) (v : Byte) : (s.setSram i v).ppu = s.ppu := rfl
@[simp] theorem setSram_apu (s : State) (i : Nat) (v : Byte) : (s.setSram i v).apu = s.apu := rfl
@[simp] theorem setSram_pad (s : State) (i : Nat) (v : Byte) : (s.setSram i v).pad = s.pad := rfl
@[simp] theorem setSram_params (s : State) (i : Nat) (v : Byte) : (s.setSram i v).params = s.params := rfl
@[simp] theorem setSram_draws (s : State) (i : Nat) (v : Byte) : (s.setSram i v).draws = s.draws := rfl
@[simp] theorem setSram_out (s : State) (i : Nat) (v : Byte) : (s.setSram i v).out = s.out := rfl

end Sys2Proof.Machine.State
end

