-- ==== Sys2Proof/Laws/Bus.lean ====
section
/-! SUPPORT. What a bus access can do, said once: `memRead_changes` and `memWrite_changes` name every field an access can
change, and the lemmas after them read single fields off; the same for the background part of a dot. -/

namespace Sys2Proof.Machine.State

/-! ## Reads -/

/-- A bus read changes the open-bus latch, and of the devices only what their read effects name: the PPU's address, buffer,
vblank flag and write toggle, the frame-IRQ flag, and the controller. -/
theorem memRead_changes (s : State) (a : Addr) : ∃ v rb vb w fi pad, (s.memRead a).2 =
    { s with
      openBus := (s.memRead a).1
      ppu := { s.ppu with v := v, readBuffer := rb, vblank := vb, w := w }
      apu := { s.apu with fs := { s.apu.fs with frameIrq := fi } }
      pad := pad } := by
  unfold memRead
  simp only []
  unfold busRead
  split
  · exact ⟨s.ppu.v, s.ppu.readBuffer, s.ppu.vblank, s.ppu.w, s.apu.fs.frameIrq, s.pad, rfl⟩
  split
  · unfold ppuRegRead
    split
    · exact ⟨s.ppu.v, s.ppu.readBuffer, false, false, s.apu.fs.frameIrq, s.pad, rfl⟩
    · exact ⟨s.ppu.v, s.ppu.readBuffer, s.ppu.vblank, s.ppu.w, s.apu.fs.frameIrq, s.pad, rfl⟩
    · unfold readData
      simp only []
      split
      · exact ⟨_, _, s.ppu.vblank, s.ppu.w, s.apu.fs.frameIrq, s.pad, rfl⟩
      · exact ⟨_, _, s.ppu.vblank, s.ppu.w, s.apu.fs.frameIrq, s.pad, rfl⟩
    · exact ⟨s.ppu.v, s.ppu.readBuffer, s.ppu.vblank, s.ppu.w, s.apu.fs.frameIrq, s.pad, rfl⟩
  split
  · unfold ioRead
    split
    · exact ⟨s.ppu.v, s.ppu.readBuffer, s.ppu.vblank, s.ppu.w, false, s.pad, rfl⟩
    split
    · unfold readPad1
      split
      · exact ⟨s.ppu.v, s.ppu.readBuffer, s.ppu.vblank, s.ppu.w, s.apu.fs.frameIrq, _, rfl⟩
      · exact ⟨s.ppu.v, s.ppu.readBuffer, s.ppu.vblank, s.ppu.w, s.apu.fs.frameIrq, _, rfl⟩
    split
    · exact ⟨s.ppu.v, s.ppu.readBuffer, s.ppu.vblank, s.ppu.w, s.apu.fs.frameIrq, s.pad, rfl⟩
    · exact ⟨s.ppu.v, s.ppu.readBuffer, s.ppu.vblank, s.ppu.w, s.apu.fs.frameIrq, s.pad, rfl⟩
  split
  · exact ⟨s.ppu.v, s.ppu.readBuffer, s.ppu.vblank, s.ppu.w, s.apu.fs.frameIrq, s.pad, rfl⟩
  split
  · exact ⟨s.ppu.v, s.ppu.readBuffer, s.ppu.vblank, s.ppu.w, s.apu.fs.frameIrq, s.pad, rfl⟩
  · exact ⟨s.ppu.v, s.ppu.readBuffer, s.ppu.vblank, s.ppu.w, s.apu.fs.frameIrq, s.pad, rfl⟩

@[simp] theorem memRead_regs (s : State) (a : Addr) : (s.memRead a).2.regs = s.regs := by
  obtain ⟨_, _, _, _, _, _, h⟩ := s.memRead_changes a; rw [h]
@[simp] theorem memRead_cycles (s : State) (a : Addr) : (s.memRead a).2.cycles = s.cycles := by
  obtain ⟨_, _, _, _, _, _, h⟩ := s.memRead_changes a; rw [h]
@[simp] theorem memRead_irqMaskSample (s : State) (a : Addr) : (s.memRead a).2.irqMaskSample = s.irqMaskSample := by
  obtain ⟨_, _, _, _, _, _, h⟩ := s.memRead_changes a; rw [h]
@[simp] theorem memRead_nmiPending (s : State) (a : Addr) : (s.memRead a).2.nmiPending = s.nmiPending := by
  obtain ⟨_, _, _, _, _, _, h⟩ := s.memRead_changes a; rw [h]
@[simp] theorem memRead_nmiConsumedAhead (s : State) (a : Addr) : (s.memRead a).2.nmiConsumedAhead = s.nmiConsumedAhead := by
  obtain ⟨_, _, _, _, _, _, h⟩ := s.memRead_changes a; rw [h]
@[simp] theorem memRead_noPollOnce (s : State) (a : Addr) : (s.memRead a).2.noPollOnce = s.noPollOnce := by
  obtain ⟨_, _, _, _, _, _, h⟩ := s.memRead_changes a; rw [h]
@[simp] theorem memRead_dma (s : State) (a : Addr) : (s.memRead a).2.dma = s.dma := by
  obtain ⟨_, _, _, _, _, _, h⟩ := s.memRead_changes a; rw [h]
@[simp] theorem memRead_halted (s : State) (a : Addr) : (s.memRead a).2.halted = s.halted := by
  obtain ⟨_, _, _, _, _, _, h⟩ := s.memRead_changes a; rw [h]
@[simp] theorem memRead_refused (s : State) (a : Addr) : (s.memRead a).2.refused = s.refused := by
  obtain ⟨_, _, _, _, _, _, h⟩ := s.memRead_changes a; rw [h]
@[simp] theorem memRead_lastSync (s : State) (a : Addr) : (s.memRead a).2.lastSync = s.lastSync := by
  obtain ⟨_, _, _, _, _, _, h⟩ := s.memRead_changes a; rw [h]
@[simp] theorem memRead_ram (s : State) (a : Addr) : (s.memRead a).2.ram = s.ram := by
  obtain ⟨_, _, _, _, _, _, h⟩ := s.memRead_changes a; rw [h]
@[simp] theorem memRead_sram (s : State) (a : Addr) : (s.memRead a).2.sram = s.sram := by
  obtain ⟨_, _, _, _, _, _, h⟩ := s.memRead_changes a; rw [h]
@[simp] theorem memRead_cart (s : State) (a : Addr) : (s.memRead a).2.cart = s.cart := by
  obtain ⟨_, _, _, _, _, _, h⟩ := s.memRead_changes a; rw [h]
@[simp] theorem memRead_mmc1 (s : State) (a : Addr) : (s.memRead a).2.mmc1 = s.mmc1 := by
  obtain ⟨_, _, _, _, _, _, h⟩ := s.memRead_changes a; rw [h]
@[simp] theorem memRead_params (s : State) (a : Addr) : (s.memRead a).2.params = s.params := by
  obtain ⟨_, _, _, _, _, _, h⟩ := s.memRead_changes a; rw [h]
@[simp] theorem memRead_draws (s : State) (a : Addr) : (s.memRead a).2.draws = s.draws := by
  obtain ⟨_, _, _, _, _, _, h⟩ := s.memRead_changes a; rw [h]
@[simp] theorem memRead_out (s : State) (a : Addr) : (s.memRead a).2.out = s.out := by
  obtain ⟨_, _, _, _, _, _, h⟩ := s.memRead_changes a; rw [h]
@[simp] theorem memRead_ppu_ctrl (s : State) (a : Addr) : (s.memRead a).2.ppu.ctrl = s.ppu.ctrl := by
  obtain ⟨_, _, _, _, _, _, h⟩ := s.memRead_changes a; rw [h]
@[simp] theorem memRead_ppu_mask (s : State) (a : Addr) : (s.memRead a).2.ppu.mask = s.ppu.mask := by
  obtain ⟨_, _, _, _, _, _, h⟩ := s.memRead_changes a; rw [h]
@[simp] theorem memRead_ppu_spriteZero (s : State) (a : Addr) : (s.memRead a).2.ppu.spriteZero = s.ppu.spriteZero := by
  obtain ⟨_, _, _, _, _, _, h⟩ := s.memRead_changes a; rw [h]
@[simp] theorem memRead_ppu_overflow (s : State) (a : Addr) : (s.memRead a).2.ppu.overflow = s.ppu.overflow := by
  obtain ⟨_, _, _, _, _, _, h⟩ := s.memRead_changes a; rw [h]
@[simp] theorem memRead_ppu_oamAddr (s : State) (a : Addr) : (s.memRead a).2.ppu.oamAddr = s.ppu.oamAddr := by
  obtain ⟨_, _, _, _, _, _, h⟩ := s.memRead_changes a; rw [h]
@[simp] theorem memRead_ppu_oam (s : State) (a : Addr) : (s.memRead a).2.ppu.oam = s.ppu.oam := by
  obtain ⟨_, _, _, _, _, _, h⟩ := s.memRead_changes a; rw [h]
@[simp] theorem memRead_ppu_nt (s : State) (a : Addr) : (s.memRead a).2.ppu.nt = s.ppu.nt := by
  obtain ⟨_, _, _, _, _, _, h⟩ := s.memRead_changes a; rw [h]
@[simp] theorem memRead_ppu_pal (s : State) (a : Addr) : (s.memRead a).2.ppu.pal = s.ppu.pal := by
  obtain ⟨_, _, _, _, _, _, h⟩ := s.memRead_changes a; rw [h]
@[simp] theorem memRead_ppu_t (s : State) (a : Addr) : (s.memRead a).2.ppu.t = s.ppu.t := by
  obtain ⟨_, _, _, _, _, _, h⟩ := s.memRead_changes a; rw [h]
@[simp] theorem memRead_ppu_x (s : State) (a : Addr) : (s.memRead a).2.ppu.x = s.ppu.x := by
  obtain ⟨_, _, _, _, _, _, h⟩ := s.memRead_changes a; rw [h]
@[simp] theorem memRead_ppu_dot (s : State) (a : Addr) : (s.memRead a).2.ppu.dot = s.ppu.dot := by
  obtain ⟨_, _, _, _, _, _, h⟩ := s.memRead_changes a; rw [h]
@[simp] theorem memRead_ppu_scanline (s : State) (a : Addr) : (s.memRead a).2.ppu.scanline = s.ppu.scanline := by
  obtain ⟨_, _, _, _, _, _, h⟩ := s.memRead_changes a; rw [h]
@[simp] theorem memRead_ppu_nmiRequest (s : State) (a : Addr) : (s.memRead a).2.ppu.nmiRequest = s.ppu.nmiRequest := by
  obtain ⟨_, _, _, _, _, _, h⟩ := s.memRead_changes a; rw [h]
@[simp] theorem memRead_apu_p1 (s : State) (a : Addr) : (s.memRead a).2.apu.p1 = s.apu.p1 := by
  obtain ⟨_, _, _, _, _, _, h⟩ := s.memRead_changes a; rw [h]
@[simp] theorem memRead_apu_p2 (s : State) (a : Addr) : (s.memRead a).2.apu.p2 = s.apu.p2 := by
  obtain ⟨_, _, _, _, _, _, h⟩ := s.memRead_changes a; rw [h]
@[simp] theorem memRead_apu_tri (s : State) (a : Addr) : (s.memRead a).2.apu.tri = s.apu.tri := by
  obtain ⟨_, _, _, _, _, _, h⟩ := s.memRead_changes a; rw [h]
@[simp] theorem memRead_apu_noise (s : State) (a : Addr) : (s.memRead a).2.apu.noise = s.apu.noise := by
  obtain ⟨_, _, _, _, _, _, h⟩ := s.memRead_changes a; rw [h]
@[simp] theorem memRead_apu_dmc (s : State) (a : Addr) : (s.memRead a).2.apu.dmc = s.apu.dmc := by
  obtain ⟨_, _, _, _, _, _, h⟩ := s.memRead_changes a; rw [h]
@[simp] theorem memRead_apu_dmcIrq (s : State) (a : Addr) : (s.memRead a).2.apu.dmcIrq = s.apu.dmcIrq := by
  obtain ⟨_, _, _, _, _, _, h⟩ := s.memRead_changes a; rw [h]
@[simp] theorem memRead_apu_ticks (s : State) (a : Addr) : (s.memRead a).2.apu.ticks = s.apu.ticks := by
  obtain ⟨_, _, _, _, _, _, h⟩ := s.memRead_changes a; rw [h]
@[simp] theorem memRead_apu_mix (s : State) (a : Addr) : (s.memRead a).2.apu.mix = s.apu.mix := by
  obtain ⟨_, _, _, _, _, _, h⟩ := s.memRead_changes a; rw [h]

/-- Every read leaves the value read on the open bus (R215). -/
@[simp] theorem memRead_openBus (s : State) (a : Addr) : (s.memRead a).2.openBus = (s.memRead a).1 := rfl

/-- A read changes no byte of storage. -/
@[simp] theorem memRead_readLoc (s : State) (a : Addr) (l : Loc) : (s.memRead a).2.readLoc l = s.readLoc l := by
  obtain ⟨_, _, _, _, _, _, h⟩ := s.memRead_changes a
  rw [h]
  cases l <;> rfl

/-- A read at an address that is no device register changes the open-bus latch alone. -/
theorem memRead_plain (s : State) {a : Addr} (h : plainAddr a = true) :
    (s.memRead a).2 = s.setOpenBus (s.memRead a).1 := by
  simp only [plainAddr, Bool.or_eq_true, decide_eq_true_eq] at h
  unfold memRead
  simp only []
  unfold busRead
  split
  · rfl
  split
  · omega
  split
  · omega
  split
  · rfl
  split <;> rfl

/-- A read of work RAM. -/
theorem memRead_work (s : State) {a : Addr} (h : a.toNat ≤ 0x1FFF) : (s.memRead a).1 = s.ramByte (a.toNat % 0x800) := by
  simp [memRead, busRead, h]

/-- A zero-page address is its byte. -/
@[simp] theorem zext_toNat (b : Byte) : (zext b).toNat = b.toNat := by
  have := b.isLt
  simp only [zext, BitVec.toNat_setWidth]
  omega

/-- A read of the zero page. -/
@[simp] theorem memRead_zext (s : State) (b : Byte) : s.memRead (zext b) = (s.ramByte b.toNat, s.setOpenBus (s.ramByte b.toNat)) := by
  have h : (zext b).toNat ≤ 0x1FFF := by simp; omega
  have hp : plainAddr (zext b) = true := by simp [plainAddr]; omega
  have hv : (s.memRead (zext b)).1 = s.ramByte b.toNat := by
    rw [memRead_work s h, zext_toNat, Nat.mod_eq_of_lt (by omega)]
  rw [← hv, ← memRead_plain s hp]

/-- The number of an address of page one. -/
@[simp] theorem stackAddr_toNat (sp : Byte) : (stackAddr sp).toNat = 0x100 + sp.toNat := by
  simp only [stackAddr, join, BitVec.toNat_append]
  rw [← Nat.shiftLeft_add_eq_or_of_lt sp.isLt]
  rfl

/-- A read of the stack page. -/
@[simp] theorem memRead_stackAddr (s : State) (sp : Byte) :
    s.memRead (stackAddr sp) = (s.ramByte (0x100 + sp.toNat), s.setOpenBus (s.ramByte (0x100 + sp.toNat))) := by
  have h : (stackAddr sp).toNat ≤ 0x1FFF := by simp; omega
  have hp : plainAddr (stackAddr sp) = true := by simp [plainAddr]; omega
  have hv : (s.memRead (stackAddr sp)).1 = s.ramByte (0x100 + sp.toNat) := by
    rw [memRead_work s h, stackAddr_toNat, Nat.mod_eq_of_lt (by omega)]
  rw [← hv, ← memRead_plain s hp]

/-! ## Writes -/

/-- What a register write can change of the picture unit: not its position, status bits, read buffer, latches or shifters. -/
def writesPpu (p q : Ppu) : Prop :=
  q = { p with
    ctrl := q.ctrl, mask := q.mask, oamAddr := q.oamAddr, oam := q.oam, nt := q.nt, pal := q.pal, v := q.v, t := q.t
    x := q.x, w := q.w, nmiRequest := q.nmiRequest }

/-- A PPU-register write changes the picture unit, pattern RAM and the NMI latches alone. -/
theorem ppuRegWrite_changes (s : State) (r : Nat) (b : Byte) : ∃ p c np nc, s.ppuRegWrite r b =
    { s with ppu := p, cart := { s.cart with chr := c }, nmiPending := np, nmiConsumedAhead := nc } ∧ writesPpu s.ppu p := by
  unfold ppuRegWrite
  split
  · unfold writeCtrl
    simp only []
    split
    · unfold setNmiRequest
      simp only []
      split
      · unfold onNmiEdge
        split
        · exact ⟨_, s.cart.chr, s.nmiPending, false, rfl, rfl⟩
        · exact ⟨_, s.cart.chr, true, s.nmiConsumedAhead, rfl, rfl⟩
      · exact ⟨_, s.cart.chr, s.nmiPending, s.nmiConsumedAhead, rfl, rfl⟩
    · exact ⟨_, s.cart.chr, s.nmiPending, s.nmiConsumedAhead, rfl, rfl⟩
  · exact ⟨_, s.cart.chr, s.nmiPending, s.nmiConsumedAhead, rfl, rfl⟩
  · exact ⟨_, s.cart.chr, s.nmiPending, s.nmiConsumedAhead, rfl, rfl⟩
  · exact ⟨_, s.cart.chr, s.nmiPending, s.nmiConsumedAhead, rfl, rfl⟩
  · unfold writeScroll
    simp only []
    split
    · exact ⟨_, s.cart.chr, s.nmiPending, s.nmiConsumedAhead, rfl, rfl⟩
    · exact ⟨_, s.cart.chr, s.nmiPending, s.nmiConsumedAhead, rfl, rfl⟩
  · unfold writeAddr
    simp only []
    split
    · exact ⟨_, s.cart.chr, s.nmiPending, s.nmiConsumedAhead, rfl, rfl⟩
    · exact ⟨_, s.cart.chr, s.nmiPending, s.nmiConsumedAhead, rfl, rfl⟩
  · unfold writeData ppuWrite
    simp only []
    split
    · unfold setChr
      split
      · exact ⟨_, _, s.nmiPending, s.nmiConsumedAhead, rfl, rfl⟩
      · exact ⟨_, s.cart.chr, s.nmiPending, s.nmiConsumedAhead, rfl, rfl⟩
    split
    · exact ⟨_, s.cart.chr, s.nmiPending, s.nmiConsumedAhead, rfl, rfl⟩
    · exact ⟨_, s.cart.chr, s.nmiPending, s.nmiConsumedAhead, rfl, rfl⟩
  · exact ⟨s.ppu, s.cart.chr, s.nmiPending, s.nmiConsumedAhead, rfl, rfl⟩

/-- A sound-register write leaves the tick count and the mixer alone. -/
theorem writeReg_clock (a : Apu) (p : Params) (c n : Nat) (b : Byte) :
    (a.writeReg p c n b).ticks = a.ticks ∧ (a.writeReg p c n b).mix = a.mix := by
  unfold Apu.writeReg
  split; · exact ⟨rfl, rfl⟩
  split; · exact ⟨rfl, rfl⟩
  split; · exact ⟨rfl, rfl⟩
  split; · exact ⟨rfl, rfl⟩
  split
  · unfold Apu.writeDmc
    split <;> exact ⟨rfl, rfl⟩
  split; · exact ⟨rfl, rfl⟩
  split <;> exact ⟨rfl, rfl⟩

/-- A bus write changes the open-bus latch, the RAMs, the mapper, the devices and the NMI latches alone; of the picture unit
and the sound unit only what `writesPpu` and a register write can. -/
theorem memWrite_changes (s : State) (a : Addr) (v : Byte) : ∃ ram sram chr mm p ap dma pad np nc, s.memWrite a v =
    { s with
      openBus := v, ram := ram, sram := sram, cart := { s.cart with chr := chr }, mmc1 := mm, ppu := p, apu := ap, dma := dma
      pad := pad, nmiPending := np, nmiConsumedAhead := nc } ∧
    writesPpu s.ppu p ∧ ap.ticks = s.apu.ticks ∧ ap.mix = s.apu.mix := by
  unfold memWrite busWrite
  split
  · exact ⟨_, s.sram, s.cart.chr, s.mmc1, s.ppu, s.apu, s.dma, s.pad, s.nmiPending, s.nmiConsumedAhead, rfl, rfl, rfl, rfl⟩
  split
  · obtain ⟨p, c, np, nc, h, hp⟩ := (s.setOpenBus v).ppuRegWrite_changes (a.toNat % 8) v
    exact ⟨s.ram, s.sram, c, s.mmc1, p, s.apu, s.dma, s.pad, np, nc, h, hp, rfl, rfl⟩
  split
  · unfold ioWrite
    split
    · exact ⟨s.ram, s.sram, s.cart.chr, s.mmc1, s.ppu, s.apu, _, s.pad, s.nmiPending, s.nmiConsumedAhead, rfl, rfl, rfl, rfl⟩
    split
    · unfold writeStrobe
      simp only []
      split
      · exact ⟨s.ram, s.sram, s.cart.chr, s.mmc1, s.ppu, s.apu, s.dma, _, s.nmiPending, s.nmiConsumedAhead, rfl, rfl, rfl, rfl⟩
      · exact ⟨s.ram, s.sram, s.cart.chr, s.mmc1, s.ppu, s.apu, s.dma, _, s.nmiPending, s.nmiConsumedAhead, rfl, rfl, rfl, rfl⟩
    · have := writeReg_clock s.apu s.params s.cycles a.toNat v
      exact ⟨s.ram, s.sram, s.cart.chr, s.mmc1, s.ppu, _, s.dma, s.pad, s.nmiPending, s.nmiConsumedAhead, rfl, rfl, this.1, this.2⟩
  split
  · exact ⟨s.ram, s.sram, s.cart.chr, s.mmc1, s.ppu, s.apu, s.dma, s.pad, s.nmiPending, s.nmiConsumedAhead, rfl, rfl, rfl, rfl⟩
  split
  · exact ⟨s.ram, _, s.cart.chr, s.mmc1, s.ppu, s.apu, s.dma, s.pad, s.nmiPending, s.nmiConsumedAhead, rfl, rfl, rfl, rfl⟩
  · unfold prgWrite
    split
    · exact ⟨s.ram, s.sram, s.cart.chr, s.mmc1, s.ppu, s.apu, s.dma, s.pad, s.nmiPending, s.nmiConsumedAhead, rfl, rfl, rfl, rfl⟩
    · exact ⟨s.ram, s.sram, s.cart.chr, _, s.ppu, s.apu, s.dma, s.pad, s.nmiPending, s.nmiConsumedAhead, rfl, rfl, rfl, rfl⟩

@[simp] theorem memWrite_regs (s : State) (a : Addr) (v : Byte) : (s.memWrite a v).regs = s.regs := by
  obtain ⟨_, _, _, _, _, _, _, _, _, _, h, _⟩ := s.memWrite_changes a v; rw [h]
@[simp] theorem memWrite_cycles (s : State) (a : Addr) (v : Byte) : (s.memWrite a v).cycles = s.cycles := by
  obtain ⟨_, _, _, _, _, _, _, _, _, _, h, _⟩ := s.memWrite_changes a v; rw [h]
@[simp] theorem memWrite_irqMaskSample (s : State) (a : Addr) (v : Byte) : (s.memWrite a v).irqMaskSample = s.irqMaskSample := by
  obtain ⟨_, _, _, _, _, _, _, _, _, _, h, _⟩ := s.memWrite_changes a v; rw [h]
@[simp] theorem memWrite_noPollOnce (s : State) (a : Addr) (v : Byte) : (s.memWrite a v).noPollOnce = s.noPollOnce := by
  obtain ⟨_, _, _, _, _, _, _, _, _, _, h, _⟩ := s.memWrite_changes a v; rw [h]
@[simp] theorem memWrite_halted (s : State) (a : Addr) (v : Byte) : (s.memWrite a v).halted = s.halted := by
  obtain ⟨_, _, _, _, _, _, _, _, _, _, h, _⟩ := s.memWrite_changes a v; rw [h]
@[simp] theorem memWrite_refused (s : State) (a : Addr) (v : Byte) : (s.memWrite a v).refused = s.refused := by
  obtain ⟨_, _, _, _, _, _, _, _, _, _, h, _⟩ := s.memWrite_changes a v; rw [h]
@[simp] theorem memWrite_lastSync (s : State) (a : Addr) (v : Byte) : (s.memWrite a v).lastSync = s.lastSync := by
  obtain ⟨_, _, _, _, _, _, _, _, _, _, h, _⟩ := s.memWrite_changes a v; rw [h]
@[simp] theorem memWrite_params (s : State) (a : Addr) (v : Byte) : (s.memWrite a v).params = s.params := by
  obtain ⟨_, _, _, _, _, _, _, _, _, _, h, _⟩ := s.memWrite_changes a v; rw [h]
@[simp] theorem memWrite_draws (s : State) (a : Addr) (v : Byte) : (s.memWrite a v).draws = s.draws := by
  obtain ⟨_, _, _, _, _, _, _, _, _, _, h, _⟩ := s.memWrite_changes a v; rw [h]
@[simp] theorem memWrite_out (s : State) (a : Addr) (v : Byte) : (s.memWrite a v).out = s.out := by
  obtain ⟨_, _, _, _, _, _, _, _, _, _, h, _⟩ := s.memWrite_changes a v; rw [h]
@[simp] theorem memWrite_cart_prg (s : State) (a : Addr) (v : Byte) : (s.memWrite a v).cart.prg = s.cart.prg := by
  obtain ⟨_, _, _, _, _, _, _, _, _, _, h, _⟩ := s.memWrite_changes a v; rw [h]
@[simp] theorem memWrite_cart_mapper (s : State) (a : Addr) (v : Byte) : (s.memWrite a v).cart.mapper = s.cart.mapper := by
  obtain ⟨_, _, _, _, _, _, _, _, _, _, h, _⟩ := s.memWrite_changes a v; rw [h]
@[simp] theorem memWrite_cart_prgBanks (s : State) (a : Addr) (v : Byte) : (s.memWrite a v).cart.prgBanks = s.cart.prgBanks := by
  obtain ⟨_, _, _, _, _, _, _, _, _, _, h, _⟩ := s.memWrite_changes a v; rw [h]
@[simp] theorem memWrite_cart_chrBanks (s : State) (a : Addr) (v : Byte) : (s.memWrite a v).cart.chrBanks = s.cart.chrBanks := by
  obtain ⟨_, _, _, _, _, _, _, _, _, _, h, _⟩ := s.memWrite_changes a v; rw [h]
@[simp] theorem memWrite_cart_vertical (s : State) (a : Addr) (v : Byte) : (s.memWrite a v).cart.vertical = s.cart.vertical := by
  obtain ⟨_, _, _, _, _, _, _, _, _, _, h, _⟩ := s.memWrite_changes a v; rw [h]

/-- Every write leaves the value written on the open bus (R215). -/
@[simp] theorem memWrite_openBus (s : State) (a : Addr) (v : Byte) : (s.memWrite a v).openBus = v := by
  obtain ⟨_, _, _, _, _, _, _, _, _, _, h, _⟩ := s.memWrite_changes a v; rw [h]

/-- A write to work RAM. -/
theorem memWrite_work (s : State) {a : Addr} (v : Byte) (h : a.toNat ≤ 0x1FFF) :
    s.memWrite a v = (s.setOpenBus v).setRam (a.toNat % 0x800) v := by
  simp [memWrite, busWrite, h]

/-- A write to save RAM. -/
theorem memWrite_save (s : State) {a : Addr} (v : Byte) (h : 0x6000 ≤ a.toNat) (h' : a.toNat ≤ 0x7FFF) :
    s.memWrite a v = (s.setOpenBus v).setSram (a.toNat - 0x6000) v := by
  have h1 : ¬ a.toNat ≤ 0x1FFF := by omega
  have h2 : ¬ a.toNat ≤ 0x3FFF := by omega
  have h3 : ¬ a.toNat ≤ 0x4017 := by omega
  have h4 : ¬ a.toNat ≤ 0x5FFF := by omega
  simp [memWrite, busWrite, h1, h2, h3, h4, h']

/-- A write to the stack page. -/
@[simp] theorem memWrite_stackAddr (s : State) (sp v : Byte) :
    s.memWrite (stackAddr sp) v = (s.setOpenBus v).setRam (0x100 + sp.toNat) v := by
  have h : (stackAddr sp).toNat ≤ 0x1FFF := by simp; omega
  rw [memWrite_work s v h, stackAddr_toNat, Nat.mod_eq_of_lt (by omega)]

/-- A byte of work RAM after a write of one. -/
@[simp] theorem setRam_ramByte (s : State) (i j : Nat) (v : Byte) :
    (s.setRam i v).ramByte j = if j = i then v else s.ramByte j := by
  unfold ramByte setRam
  split
  · subst_vars; simp
  · simp only []
    rw [Memory.read?_write_other _ _ ‹_›]

/-- A byte of save RAM after a write of one. -/
@[simp] theorem setSram_sramByte (s : State) (i j : Nat) (v : Byte) :
    (s.setSram i v).sramByte j = if j = i then v else s.sramByte j := by
  unfold sramByte setSram
  split
  · subst_vars; simp
  · simp only []
    rw [Memory.read?_write_other _ _ ‹_›]

/-- The read-modify-write's last writes are R412's: the old byte back first under RMW_DUMMY_WRITE, then the new one. -/
theorem writeBack_eq (s : State) (a : Addr) (old new : Byte) :
    s.writeBack a old new =
      if s.params.rmwDummyWrite then (s.memWrite a old).memWriteSecond a new else s.memWrite a new := by
  unfold writeBack
  split
  · split
    · rcases ‹_ ∨ _› with h | ⟨h, h'⟩
      · have h8 : ¬ 0x8000 ≤ a.toNat := by omega
        simp only [memWriteSecond, h8, and_false, if_false]
        rw [memWrite_work s new h, memWrite_work s old h, memWrite_work _ new h]
        simp [setRam, setOpenBus, Memory.write_write]
      · have h8 : ¬ 0x8000 ≤ a.toNat := by omega
        simp only [memWriteSecond, h8, and_false, if_false]
        rw [memWrite_save s new h h', memWrite_save s old h h', memWrite_save _ new h h']
        simp [setSram, setOpenBus, Memory.write_write]
    · rfl
  · rfl

/-! ## The background part of a dot -/

/-- What a fetch of R930 can change: `v`, the latches and the shifters. -/
theorem fetchStep_changes (s : State) (k : Nat) : ∃ v nl al pl ph bl bh tl th, s.fetchStep k =
    s.setPpu { s.ppu with
      v := v, ntLatch := nl, atLatch := al, ptLo := pl, ptHi := ph, bgLo := bl, bgHi := bh, atLo := tl, atHi := th } := by
  unfold fetchStep
  split <;> exact ⟨_, _, _, _, _, _, _, _, _, rfl⟩

/-- What the background part of a dot can change: `v`, the latches and the shifters. -/
theorem renderBackground_changes (s : State) (sl d : Nat) (r : Bool) : ∃ v nl al pl ph bl bh tl th,
    s.renderBackground sl d r = s.setPpu { s.ppu with
      v := v, ntLatch := nl, atLatch := al, ptLo := pl, ptHi := ph, bgLo := bl, bgHi := bh, atLo := tl, atHi := th } := by
  have same : ∃ v nl al pl ph bl bh tl th, s = s.setPpu { s.ppu with
      v := v, ntLatch := nl, atLatch := al, ptLo := pl, ptHi := ph, bgLo := bl, bgHi := bh, atLo := tl, atHi := th } :=
    ⟨_, _, _, _, _, _, _, _, _, rfl⟩
  have scroll : ∀ {u : State} {c : Prop} [Decidable c] {f : BitVec 15},
      (∃ v nl al pl ph bl bh tl th, u = s.setPpu { s.ppu with
        v := v, ntLatch := nl, atLatch := al, ptLo := pl, ptHi := ph, bgLo := bl, bgHi := bh, atLo := tl, atHi := th }) →
      ∃ v nl al pl ph bl bh tl th, (if c then u.setPpu { u.ppu with v := f } else u) = s.setPpu { s.ppu with
        v := v, ntLatch := nl, atLatch := al, ptLo := pl, ptHi := ph, bgLo := bl, bgHi := bh, atLo := tl, atHi := th } := by
    intro u c _ f ⟨_, _, _, _, _, _, _, _, _, hu⟩
    subst hu
    split <;> exact ⟨_, _, _, _, _, _, _, _, _, rfl⟩
  unfold renderBackground
  split
  · unfold background
    refine scroll (scroll (scroll ?_))
    split
    · obtain ⟨_, _, _, _, _, _, _, _, _, h⟩ := fetchStep_changes (s.setPpu s.ppu.shiftAll) ((d - 1) % 8)
      exact ⟨_, _, _, _, _, _, _, _, _, h⟩
    · exact same
  · exact same

end Sys2Proof.Machine.State
end

