-- ==== Sys2Proof/Laws/Flags.lean ====
section
/-! SUPPORT. Laws of the status word: each flag computation, flag by flag. -/

namespace Sys2Proof.Machine

/-- A flag after a flag is set: its value, or the old one. -/
@[simp] theorem flag_setFlag (p : Byte) (f g : Flag) (v : Bool) :
    flag (setFlag p f v) g = if g = f then v else flag p g := by
  cases f <;> cases g <;> cases v <;> simp [flag, setFlag, Flag.bit]

/-- The flags after N and Z are set from a byte. -/
@[simp] theorem flag_setNZ (p v : Byte) (g : Flag) :
    flag (setNZ p v) g = if g = .n then v.getLsbD 7 else if g = .z then decide (v = 0) else flag p g := by
  cases g <;> simp [setNZ]

/-- N and Z set from a byte show it. -/
theorem showsNZ_setNZ (p v : Byte) : showsNZ (setNZ p v) v := by simp [showsNZ]

/-- Setting N and Z keeps the other flags. -/
theorem keepsFlags_setNZ (p v : Byte) : keepsFlags p (setNZ p v) [.n, .z] := by
  intro f hf
  cases f <;> simp_all

/-- The flags of a pulled byte (R119). -/
@[simp] theorem flag_pulledP (b : Byte) (g : Flag) :
    flag (pulledP b) g = if g = .b then false else if g = .u then true else flag b g := by
  cases g <;> simp [flag, pulledP, Flag.bit]

/-- The flags of a pushed byte (R119). -/
@[simp] theorem flag_pushedP (p : Byte) (brk : Bool) (g : Flag) :
    flag (pushedP p brk) g = if g = .b then brk else if g = .u then true else flag p g := by
  cases g <;> cases brk <;> simp [flag, pushedP, Flag.bit]

/-- Two status words with the same flags are the same. -/
theorem flag_ext {p q : Byte} (h : ∀ f, flag p f = flag q f) : p = q := by
  apply BitVec.eq_of_getLsbD_eq
  intro i hi
  have := h .c; have := h .z; have := h .i; have := h .d; have := h .b; have := h .u; have := h .v; have := h .n
  simp only [flag, Flag.bit] at *
  interval_cases i <;> assumption

/-- A normalised status word is what pulling what was pushed of it gives (R653). -/
theorem pulledP_pushedP {p : Byte} (brk : Bool) (h : statusOk p = true) : pulledP (pushedP p brk) = p := by
  simp only [statusOk, Bool.and_eq_true, Bool.not_eq_true'] at h
  apply flag_ext
  intro f
  cases f <;> simp [h.1, h.2]

/-- The flags after a comparison (R501). -/
@[simp] theorem flag_compareP (r m p : Byte) (g : Flag) :
    flag (compareP r m p) g =
      if g = .n then (r - m).getLsbD 7 else if g = .z then decide (r - m = 0)
      else if g = .c then decide (m.toNat ≤ r.toNat) else flag p g := by
  cases g <;> simp [compareP]

/-- The flags after BIT (R510). -/
@[simp] theorem flag_bitP (a m p : Byte) (g : Flag) :
    flag (bitP a m p) g =
      if g = .v then m.getLsbD 6 else if g = .n then m.getLsbD 7 else if g = .z then decide (a &&& m = 0) else flag p g := by
  cases g <;> simp [bitP]

/-- Flag writes other than B and U keep the status word normalised. -/
theorem statusOk_setFlag {p : Byte} (f : Flag) (v : Bool) (h : statusOk p = true) (hb : f ≠ .b) (hu : f ≠ .u) :
    statusOk (setFlag p f v) = true := by
  simp only [statusOk, flag_setFlag, Ne.symm hb, Ne.symm hu, if_false]
  exact h

/-- Setting N and Z keeps the status word normalised. -/
theorem statusOk_setNZ {p : Byte} (v : Byte) (h : statusOk p = true) : statusOk (setNZ p v) = true := by
  simpa [statusOk] using h

/-- A pulled status word is normalised (R116). -/
theorem statusOk_pulledP (b : Byte) : statusOk (pulledP b) = true := by simp [statusOk]

/-- A status word that keeps B and U of a normalised one is normalised. -/
theorem statusOk_of_keeps {p q : Byte} {l : List Flag} (h : statusOk p = true) (k : keepsFlags p q l) (hb : .b ∉ l)
    (hu : .u ∉ l) : statusOk q = true := by
  simpa [statusOk, k .b hb, k .u hu] using h

/-- The binary addition keeps every flag but N, V, Z, C (R500). -/
theorem keepsFlags_addWithCarry (a m p : Byte) : keepsFlags p (addWithCarry a m p).2 [.n, .v, .z, .c] := by
  intro f hf
  cases f <;> simp_all [addWithCarry]

/-- The decimal addition keeps every flag but N, V, Z, C (R502). -/
theorem keepsFlags_adcDecimal (a m p : Byte) : keepsFlags p (adcDecimal a m p).2 [.n, .v, .z, .c] := by
  intro f hf
  cases f <;> simp_all [adcDecimal]

/-- ADC keeps every flag but N, V, Z, C (R505). -/
theorem keepsFlags_adcResult (d : Bool) (a m p : Byte) : keepsFlags p (adcResult d a m p).2 [.n, .v, .z, .c] := by
  unfold adcResult
  split
  · exact keepsFlags_adcDecimal a m p
  · exact keepsFlags_addWithCarry a m p

/-- SBC keeps every flag but N, V, Z, C (R506). -/
theorem keepsFlags_sbcResult (d : Bool) (a m p : Byte) : keepsFlags p (sbcResult d a m p).2 [.n, .v, .z, .c] := by
  unfold sbcResult
  split
  · exact keepsFlags_addWithCarry a (m ^^^ 0xFF) p
  · exact keepsFlags_addWithCarry a (m ^^^ 0xFF) p

end Sys2Proof.Machine
end

