-- ==== Sys2Proof/Laws/Frame.lean ====
section
/-! SUPPORT. Where a bus write lands: the place it reaches holds what was written, and every other byte of storage is kept. -/

namespace Sys2Proof.Machine.State

/-- The bytes of storage are functions of the memories, the CHR bank count and the parameters. -/
theorem readLoc_congr {s t : State} (h1 : t.ram = s.ram) (h2 : t.sram = s.sram) (h3 : t.cart.prg = s.cart.prg)
    (h4 : t.cart.chr = s.cart.chr) (h5 : t.cart.chrBanks = s.cart.chrBanks) (h6 : t.ppu.nt = s.ppu.nt)
    (h7 : t.ppu.oam = s.ppu.oam) (h8 : t.ppu.pal = s.ppu.pal) (h9 : t.params = s.params) (l : Loc) :
    t.readLoc l = s.readLoc l := by
  cases l <;> simp [readLoc, ramByte, sramByte, prgByte, chrByte, ntByte, oamByte, palByte, *]

/-- Changes that touch no memory keep every byte of storage. -/
theorem readLoc_setPpu (s : State) (p : Ppu) (h1 : p.nt = s.ppu.nt) (h2 : p.oam = s.ppu.oam) (h3 : p.pal = s.ppu.pal)
    (l : Loc) : (s.setPpu p).readLoc l = s.readLoc l :=
  readLoc_congr (s := s) (t := s.setPpu p) rfl rfl rfl rfl rfl h1 h2 h3 rfl l

/-- A PPUDATA write keeps or changes the bytes its PPU-bus write does. -/
theorem readLoc_writeData (s : State) (b : Byte) (l : Loc) :
    (s.writeData b).readLoc l = (s.ppuWrite s.ppu.busAddr b).readLoc l :=
  readLoc_congr (s := s.ppuWrite s.ppu.busAddr b) (t := s.writeData b) rfl rfl rfl rfl rfl rfl rfl rfl rfl l

/-- The NMI request and its edge keep every byte of storage. -/
theorem readLoc_setNmiRequest (s : State) (r : Bool) (l : Loc) : (s.setNmiRequest r).readLoc l = s.readLoc l := by
  unfold setNmiRequest
  simp only []
  split
  · unfold onNmiEdge
    split <;> exact readLoc_congr rfl rfl rfl rfl rfl rfl rfl rfl rfl l
  · exact readLoc_setPpu s _ rfl rfl rfl l

/-- A PPU-bus write keeps every byte but the one it reaches (R910 to R913). -/
theorem ppuWrite_keeps (s : State) (a : Nat) (b : Byte) {l : Loc} (h : some l ≠ s.ppuStoreLoc a) :
    (s.ppuWrite a b).readLoc l = s.readLoc l := by
  unfold ppuStoreLoc at h
  unfold ppuWrite
  simp only [] at h ⊢
  split
  · simp only [*, if_true] at h
    unfold setChr
    split
    · simp only [*, if_true, ne_eq, Option.some.injEq] at h
      cases l <;> try rfl
      simp only [Loc.chr.injEq] at h
      simp only [readLoc, chrByte]
      rw [Memory.read?_write_other _ _ h]
    · rfl
  split
  · simp only [*, if_true, if_false, ne_eq, Option.some.injEq] at h
    cases l <;> try rfl
    simp only [Loc.nt.injEq] at h
    simp only [readLoc, ntByte, setNt]
    rw [Memory.read?_write_other _ _ h]
  · simp only [*, if_false, ne_eq, Option.some.injEq] at h
    cases l <;> try rfl
    simp only [Loc.pal.injEq] at h
    simp only [readLoc, palByte, setPal]
    rw [Memory.read?_write_other _ _ h]

/-- A bus write keeps every byte of storage but the one it reaches (R220 to R226). -/
theorem memWrite_keepsBytes (s : State) (a : Addr) (v : Byte) : keepsBytes s (s.memWrite a v) [s.storeLoc a] := by
  intro l hl
  simp only [List.mem_singleton] at hl
  unfold storeLoc at hl
  unfold memWrite busWrite
  split
  · simp only [*, if_true, Option.some.injEq] at hl
    cases l <;> try rfl
    simp only [Loc.work.injEq] at hl
    simp only [readLoc, ramByte, setRam]
    rw [Memory.read?_write_other _ _ hl]
    rfl
  split
  · simp only [*, if_true, if_false] at hl
    unfold ppuRegWrite
    generalize a.toNat % 8 = r at hl ⊢
    split
    · unfold writeCtrl
      simp only []
      split
      · rw [readLoc_setNmiRequest]
        exact readLoc_congr rfl rfl rfl rfl rfl rfl rfl rfl rfl l
      · exact readLoc_congr rfl rfl rfl rfl rfl rfl rfl rfl rfl l
    · exact readLoc_congr rfl rfl rfl rfl rfl rfl rfl rfl rfl l
    · exact readLoc_congr rfl rfl rfl rfl rfl rfl rfl rfl rfl l
    · simp only [Option.some.injEq] at hl
      cases l <;> try rfl
      simp only [Loc.oam.injEq] at hl
      simp only [readLoc, oamByte, writeOam, setOam]
      have : ∀ i j : Byte, ¬ i = j → i.toNat ≠ j.toNat := fun i j h k => h (BitVec.eq_of_toNat_eq k)
      change ((s.ppu.oam.write s.ppu.oamAddr.toNat v).read? _).getD _ = _
      rw [Memory.read?_write_other _ _ (this _ _ hl)]
      rfl
    · unfold writeScroll
      simp only []
      split <;> exact readLoc_congr rfl rfl rfl rfl rfl rfl rfl rfl rfl l
    · unfold writeAddr
      simp only []
      split <;> exact readLoc_congr rfl rfl rfl rfl rfl rfl rfl rfl rfl l
    · rw [readLoc_writeData]
      exact ppuWrite_keeps (s.setOpenBus v) s.ppu.busAddr v (l := l) hl
    · rfl
  split
  · unfold ioWrite
    split; · exact readLoc_congr rfl rfl rfl rfl rfl rfl rfl rfl rfl l
    split
    · unfold writeStrobe
      simp only []
      split <;> exact readLoc_congr rfl rfl rfl rfl rfl rfl rfl rfl rfl l
    · exact readLoc_congr rfl rfl rfl rfl rfl rfl rfl rfl rfl l
  split
  · rfl
  split
  · have h6 : 0x6000 ≤ a.toNat := by omega
    simp only [*, if_true, if_false, and_self, Option.some.injEq] at hl
    cases l <;> try rfl
    simp only [Loc.save.injEq] at hl
    simp only [readLoc, sramByte, setSram]
    rw [Memory.read?_write_other _ _ hl]
    rfl
  · unfold prgWrite
    split <;> exact readLoc_congr rfl rfl rfl rfl rfl rfl rfl rfl rfl l

/-- The place a PPU-bus write reaches holds what was written. -/
theorem ppuWrite_stores (s : State) (a : Nat) (b : Byte) {l : Loc} (h : s.ppuStoreLoc a = some l) :
    (s.ppuWrite a b).readLoc l = storedByte l b := by
  unfold ppuStoreLoc at h
  unfold ppuWrite
  simp only [] at h ⊢
  split
  · simp only [*, if_true] at h
    unfold setChr
    split
    · simp only [*, if_true, Option.some.injEq] at h
      subst h
      simp [readLoc, chrByte, storedByte]
    · simp [*] at h
  split
  · simp only [*, if_true, if_false, Option.some.injEq] at h
    subst h
    simp [readLoc, ntByte, setNt, storedByte]
  · simp only [*, if_false, Option.some.injEq] at h
    subst h
    simp [readLoc, palByte, setPal, storedByte, BitVec.and_assoc]

/-- The place a bus write reaches holds what was written. -/
theorem memWrite_stores (s : State) (a : Addr) (v : Byte) {l : Loc} (h : s.storeLoc a = some l) :
    (s.memWrite a v).readLoc l = storedByte l v := by
  unfold storeLoc at h
  unfold memWrite busWrite
  split
  · simp only [*, if_true, Option.some.injEq] at h
    subst h
    simp [readLoc, storedByte]
  split
  · simp only [*, if_true, if_false] at h
    unfold ppuRegWrite
    generalize a.toNat % 8 = r at h ⊢
    split at h
    · simp only [Option.some.injEq] at h
      subst h
      change (((s.ppu.oam.write s.ppu.oamAddr.toNat v).read? _).getD _) = v
      simp
    · change ((s.setOpenBus v).writeData v).readLoc l = _
      rw [readLoc_writeData]
      exact ppuWrite_stores (s.setOpenBus v) s.ppu.busAddr v (l := l) h
    · simp at h
  split
  · have h1 : ¬ 0x6000 ≤ a.toNat := by omega
    simp [*] at h
  split
  · have h1 : ¬ 0x6000 ≤ a.toNat := by omega
    simp [*] at h
  split
  · have h1 : 0x6000 ≤ a.toNat := by omega
    simp only [*, if_true, if_false, and_self, Option.some.injEq] at h
    subst h
    simp [readLoc, storedByte]
  · simp [*] at h

end Sys2Proof.Machine.State
end

