-- ==== Sys2Proof/Laws/Mixer.lean ====
section
/-! SUPPORT. The mixer's filter on coefficients is R1072's filter on real numbers, and keeps its polynomial in one form. -/

namespace Sys2Proof.Machine

@[simp] theorem FilterValue.value_addRat (v : FilterValue) (q : Rat) : (v.addRat q).value = v.value + q := by
  unfold FilterValue.addRat
  split
  · split <;> simp_all [FilterValue.value]
  · rename_i c cs
    split
    · rename_i h
      obtain ⟨rfl, h⟩ := h
      have h' : (c : Real) + q = 0 := by exact_mod_cast h
      simp [FilterValue.value, h']
    · simp only [FilterValue.value, Rat.cast_add]
      ring

@[simp] theorem FilterValue.value_timesAlpha (v : FilterValue) : v.timesAlpha.value = Config.hpfAlpha.val * v.value := by
  unfold FilterValue.timesAlpha
  split <;> simp [FilterValue.value]

/-- The filter of R1072: `y = HPF_ALPHA * (hpPrevOut + m - hpPrevIn)` in real numbers, kept as the next `hpPrevOut`. -/
theorem Mixer.sample_filters (m : Mixer) :
    m.sample.2.value = Config.hpfAlpha.val * (m.hpPrevOut.value + m.level - m.hpPrevIn) ∧
      m.sample.1.hpPrevOut = m.sample.2 ∧ m.sample.1.hpPrevIn = m.level := by
  refine ⟨?_, rfl, rfl⟩
  simp only [Mixer.sample, FilterValue.value_timesAlpha, FilterValue.value_addRat, Rat.cast_sub]
  ring

theorem FilterValue.addRat_wf {v : FilterValue} (h : v.wf) (q : Rat) : (v.addRat q).wf := by
  unfold FilterValue.addRat
  split
  · split <;> simp_all [FilterValue.wf]
  · rename_i c cs
    cases cs with
    | nil => split <;> simp_all [FilterValue.wf]
    | cons d ds => simpa [FilterValue.wf, List.getLast?_cons_cons] using h

theorem FilterValue.timesAlpha_wf {v : FilterValue} (h : v.wf) : v.timesAlpha.wf := by
  unfold FilterValue.timesAlpha
  split
  · rfl
  · simpa [FilterValue.wf, List.getLast?_cons_cons] using h

/-- Sample timing keeps the filter's polynomial in its one form. -/
theorem Mixer.advance_wf {m : Mixer} (h : m.hpPrevOut.wf) (period : Rat) : (m.advance period).1.hpPrevOut.wf := by
  unfold Mixer.advance
  simp only []
  split
  · exact FilterValue.timesAlpha_wf (FilterValue.addRat_wf h _)
  · exact h

end Sys2Proof.Machine
end

