-- ==== Sys2Proof/Laws/Inv.lean ====
section
/-! SUPPORT. The shared operations keep the invariant: bus accesses, one dot, one sound tick, the replay. -/

namespace Sys2Proof.Machine
namespace State

/-! ## Ranges of the device addresses -/

theorem palIndex_lt (a : Nat) : palIndex a < 0x20 := by
  unfold palIndex
  simp only []
  split <;> omega

theorem ntIndex_lt (s : State) (a : Nat) : s.ntIndex a < 0x800 := by
  unfold ntIndex
  simp only []
  have h1 : a / 0x400 % 4 < 4 := Nat.mod_lt _ (by omega)
  have h2 : a % 0x400 < 0x400 := Nat.mod_lt _ (by omega)
  split <;> omega

/-- Pattern RAM is addressed within its 8 KiB (R232, R245). -/
theorem chrIndex_lt (s : State) {a : Nat} (h : s.cart.chrBanks = 0) (ha : a < 0x2000) : s.chrIndex a < 0x2000 := by
  unfold chrIndex
  split
  · exact ha
  · have hm : s.cart.chrBanks4 = 2 := by simp [Cart.chrBanks4, h]
    simp only [hm]
    have h2 : a % 0x1000 < 0x1000 := Nat.mod_lt _ (by omega)
    split
    · have := Nat.mod_lt (if decide (0x1000 ≤ a) then s.mmc1.chr1.toNat else s.mmc1.chr0.toNat) (show 0 < 2 by omega)
      omega
    · have := Nat.mod_lt ((s.mmc1.chr0 &&& 0x1E).toNat + (decide (0x1000 ≤ a)).toNat) (show 0 < 2 by omega)
      omega

/-! ## Changes outside what the invariant speaks of -/

/-- Two states that agree on what the invariant speaks of. -/
theorem Inv.congr {s t : State} (h : s.Inv) (h1 : t.ram = s.ram) (h2 : t.sram = s.sram) (h3 : t.cart = s.cart)
    (h4 : statusOk t.regs.p) (h5 : t.mmc1 = s.mmc1) (h6 : t.ppu.Inv) (h7 : t.apu.Inv) (h8 : t.dma.align ≤ 2)
    (h9 : t.params = s.params) (h10 : t.lastSync ≤ t.cycles) : t.Inv where
  ram := by rw [h1]; exact h.ram
  sram := by rw [h2]; exact h.sram
  prg := by rw [h3]; exact h.prg
  chr := by rw [h3]; exact h.chr
  status := h4
  count := by rw [h5]; exact h.count
  ppu := h6
  apu := h7
  align := h8
  delays := by rw [h9]; exact h.delays
  sync := h10

/-- A register change that keeps P normalised keeps the invariant. -/
theorem Inv.setRegs {s : State} (h : s.Inv) {r : Regs} (hp : statusOk r.p = true) : ({ s with regs := r } : State).Inv :=
  h.congr rfl rfl rfl hp rfl h.ppu h.apu h.align rfl h.sync

theorem Inv.setA {s : State} (h : s.Inv) (v : Byte) : (s.setA v).Inv := h.setRegs h.status
theorem Inv.setX {s : State} (h : s.Inv) (v : Byte) : (s.setX v).Inv := h.setRegs h.status
theorem Inv.setY {s : State} (h : s.Inv) (v : Byte) : (s.setY v).Inv := h.setRegs h.status
theorem Inv.setSp {s : State} (h : s.Inv) (v : Byte) : (s.setSp v).Inv := h.setRegs h.status
theorem Inv.setPc {s : State} (h : s.Inv) (v : Addr) : (s.setPc v).Inv := h.setRegs h.status
theorem Inv.setP {s : State} (h : s.Inv) {v : Byte} (hv : statusOk v = true) : (s.setP v).Inv := h.setRegs hv
theorem Inv.setNZOf {s : State} (h : s.Inv) (v : Byte) : (s.setNZOf v).Inv := h.setP (statusOk_setNZ v h.status)

theorem Inv.addCycles {s : State} (h : s.Inv) (n : Nat) : (s.addCycles n).Inv :=
  h.congr rfl rfl rfl h.status rfl h.ppu h.apu h.align rfl (Nat.le_add_right_of_le h.sync)

theorem Inv.setOpenBus {s : State} (h : s.Inv) (v : Byte) : (s.setOpenBus v).Inv :=
  h.congr rfl rfl rfl h.status rfl h.ppu h.apu h.align rfl h.sync

theorem Inv.emit {s : State} (h : s.Inv) (e : HostEvent) : (s.emit e).Inv :=
  h.congr rfl rfl rfl h.status rfl h.ppu h.apu h.align rfl h.sync

theorem Inv.setPpu {s : State} (h : s.Inv) {p : Ppu} (hp : p.Inv) : (s.setPpu p).Inv :=
  h.congr rfl rfl rfl h.status rfl hp h.apu h.align rfl h.sync

theorem Inv.setApu {s : State} (h : s.Inv) {a : Apu} (ha : a.Inv) : (s.setApu a).Inv :=
  h.congr rfl rfl rfl h.status rfl h.ppu ha h.align rfl h.sync

theorem Inv.setRam {s : State} (h : s.Inv) {i : Nat} (v : Byte) (hi : i < 0x800) : (s.setRam i v).Inv :=
  { h with ram := ⟨Memory.wf_write i v h.ram.1, Memory.below_write v h.ram.2 hi⟩ }

theorem Inv.setSram {s : State} (h : s.Inv) {i : Nat} (v : Byte) (hi : i < 0x2000) : (s.setSram i v).Inv :=
  { h with sram := ⟨Memory.wf_write i v h.sram.1, Memory.below_write v h.sram.2 hi⟩ }

theorem Inv.setChr {s : State} (h : s.Inv) {i : Nat} (v : Byte) (hi : s.cart.chrBanks = 0 → i < 0x2000) : (s.setChr i v).Inv := by
  unfold State.setChr
  split
  · rename_i h0
    have hc := h.chr
    rw [if_pos h0] at hc
    exact { h with chr := by simp only [h0, if_true]; exact ⟨Memory.wf_write i v hc.1, Memory.below_write v hc.2 (hi h0)⟩ }
  · exact h

theorem Inv.onNmiEdge {s : State} (h : s.Inv) : s.onNmiEdge.Inv := by
  unfold State.onNmiEdge
  split <;> exact h.congr rfl rfl rfl h.status rfl h.ppu h.apu h.align rfl h.sync

/-- A change of the picture unit's registers and latches keeps its invariant. -/
theorem ppuInv_of {p q : Ppu} (h : p.Inv) (h1 : q.oam = p.oam) (h2 : q.nt = p.nt) (h3 : q.pal = p.pal)
    (h4 : q.dot = p.dot) (h5 : q.scanline = p.scanline) (h6 : q.overflow = p.overflow) : q.Inv where
  oam := by rw [h1]; exact h.oam
  nt := by rw [h2]; exact h.nt
  pal := by rw [h3]; exact h.pal
  palSix := by rw [h3]; exact h.palSix
  dot := by rw [h4]; exact h.dot
  scanline := by rw [h5]; exact h.scanline
  overflow := by rw [h6]; exact h.overflow

theorem Inv.setNmiRequest {s : State} (h : s.Inv) (r : Bool) : (s.setNmiRequest r).Inv := by
  unfold State.setNmiRequest
  have := h.setPpu (ppuInv_of h.ppu (q := { s.ppu with nmiRequest := r }) rfl rfl rfl rfl rfl rfl)
  simp only []
  split
  · exact this.onNmiEdge
  · exact this

/-! ## Bus accesses -/

theorem Inv.memRead {s : State} (h : s.Inv) (a : Addr) : (s.memRead a).2.Inv := by
  obtain ⟨v, rb, vb, w, fi, pad, e⟩ := s.memRead_changes a
  rw [e]
  exact h.congr rfl rfl rfl h.status rfl (ppuInv_of h.ppu rfl rfl rfl rfl rfl rfl)
    ⟨h.apu.lfsr, h.apu.sampleAddr, h.apu.curAddr, h.apu.bitsLeft, h.apu.delay, h.apu.filter⟩ h.align rfl h.sync

theorem Inv.ppuWrite {s : State} (h : s.Inv) (a : Nat) (b : Byte) : (s.ppuWrite a b).Inv := by
  unfold State.ppuWrite
  simp only []
  split
  · exact h.setChr b (fun h0 => chrIndex_lt s h0 ‹_›)
  split
  · exact h.setPpu { h.ppu with nt := ⟨Memory.wf_write _ b h.ppu.nt.1, Memory.below_write b h.ppu.nt.2 (ntIndex_lt s _)⟩ }
  · refine h.setPpu { h.ppu with
      pal := ⟨Memory.wf_write _ _ h.ppu.pal.1, Memory.below_write _ h.ppu.pal.2 (palIndex_lt _)⟩
      palSix := Memory.all_write _ _ h.ppu.palSix ?_ }
    simp only [decide_eq_true_eq, BitVec.toNat_and]
    exact Nat.lt_of_le_of_lt Nat.and_le_right (by decide)

theorem Inv.writeOam {s : State} (h : s.Inv) (b : Byte) : (s.writeOam b).Inv :=
  h.setPpu ⟨⟨Memory.wf_write _ b h.ppu.oam.1, Memory.below_write b h.ppu.oam.2 s.ppu.oamAddr.isLt⟩, h.ppu.nt, h.ppu.pal,
    h.ppu.palSix, h.ppu.dot, h.ppu.scanline, h.ppu.overflow⟩

theorem Inv.ppuRegWrite {s : State} (h : s.Inv) (r : Nat) (b : Byte) : (s.ppuRegWrite r b).Inv := by
  have hp : ∀ {q : Ppu}, q.oam = s.ppu.oam → q.nt = s.ppu.nt → q.pal = s.ppu.pal → q.dot = s.ppu.dot →
      q.scanline = s.ppu.scanline → q.overflow = s.ppu.overflow → (s.setPpu q).Inv :=
    fun h1 h2 h3 h4 h5 h6 => h.setPpu (ppuInv_of h.ppu h1 h2 h3 h4 h5 h6)
  unfold State.ppuRegWrite
  split
  · unfold State.writeCtrl
    simp only []
    split
    · refine Inv.setNmiRequest ?_ _
      exact hp rfl rfl rfl rfl rfl rfl
    · exact hp rfl rfl rfl rfl rfl rfl
  · exact hp rfl rfl rfl rfl rfl rfl
  · exact hp rfl rfl rfl rfl rfl rfl
  · exact h.writeOam b
  · unfold State.writeScroll
    simp only []
    split <;> exact hp rfl rfl rfl rfl rfl rfl
  · unfold State.writeAddr
    simp only []
    split <;> exact hp rfl rfl rfl rfl rfl rfl
  · have h2 := h.ppuWrite s.ppu.busAddr b
    exact h2.setPpu (ppuInv_of h2.ppu rfl rfl rfl rfl rfl rfl)
  · exact h

theorem dmcSampleAddr_ge (b : Byte) : 0xC000 ≤ (dmcSampleAddr b).toNat := by
  revert b
  decide

theorem Apu.Inv.writeReg {a : Apu} (h : a.Inv) (p : Params) (hd : p.frameDelayEven ≤ 4 ∧ p.frameDelayOdd ≤ 4)
    (c n : Nat) (b : Byte) : (a.writeReg p c n b).Inv := by
  have hc : 0x8000 ≤ a.dmc.sampleAddr.toNat := Nat.le_trans (by decide) h.sampleAddr
  unfold Apu.writeReg
  split; · exact ⟨h.lfsr, h.sampleAddr, h.curAddr, h.bitsLeft, h.delay, h.filter⟩
  split; · exact ⟨h.lfsr, h.sampleAddr, h.curAddr, h.bitsLeft, h.delay, h.filter⟩
  split; · exact ⟨h.lfsr, h.sampleAddr, h.curAddr, h.bitsLeft, h.delay, h.filter⟩
  split
  · refine ⟨?_, h.sampleAddr, h.curAddr, h.bitsLeft, h.delay, h.filter⟩
    unfold Noise.writeReg
    split <;> exact h.lfsr
  split
  · unfold Apu.writeDmc
    split
    · exact ⟨h.lfsr, h.sampleAddr, h.curAddr, h.bitsLeft, h.delay, h.filter⟩
    · exact ⟨h.lfsr, h.sampleAddr, h.curAddr, h.bitsLeft, h.delay, h.filter⟩
    · exact ⟨h.lfsr, dmcSampleAddr_ge b, h.curAddr, h.bitsLeft, h.delay, h.filter⟩
    · exact ⟨h.lfsr, h.sampleAddr, h.curAddr, h.bitsLeft, h.delay, h.filter⟩
    · exact h
  split
  · unfold Apu.writeEnables Dmc.enable
    refine ⟨h.lfsr, ?_, ?_, ?_, h.delay, h.filter⟩ <;> simp only []
    · split <;> [exact h.sampleAddr; (split <;> exact h.sampleAddr)]
    · split <;> [exact h.curAddr; (split <;> [exact hc; exact h.curAddr])]
    · split <;> [exact h.bitsLeft; (split <;> exact h.bitsLeft)]
  split
  · refine ⟨h.lfsr, h.sampleAddr, h.curAddr, h.bitsLeft, ?_, h.filter⟩
    unfold Apu.writeFrame frameWriteDelay
    simp only []
    split <;> [exact hd.1; exact hd.2]
  · exact h

theorem serialWrite_count {m : Mmc1} (h : m.count < 5) (b : Bool) (a : Nat) (v : Byte) : (m.serialWrite b a v).count < 5 := by
  unfold Mmc1.serialWrite
  split
  · simp
  · simp only []
    split
    · split <;> simp
    · simp only []
      omega

theorem Inv.memWrite {s : State} (h : s.Inv) (a : Addr) (v : Byte) : (s.memWrite a v).Inv := by
  have h0 := h.setOpenBus v
  unfold State.memWrite busWrite
  split
  · exact h0.setRam v (Nat.mod_lt _ (by omega))
  split
  · exact h0.ppuRegWrite _ v
  split
  · unfold ioWrite
    split
    · refine h0.congr rfl rfl rfl h0.status rfl h0.ppu h0.apu ?_ rfl h0.sync
      simp only [startDma]
      have := Nat.mod_lt (s.setOpenBus v).cycles (show 0 < 2 by omega)
      omega
    split
    · unfold writeStrobe
      simp only []
      split <;> exact h0.congr rfl rfl rfl h0.status rfl h0.ppu h0.apu h0.align rfl h0.sync
    · exact h0.setApu (Apu.Inv.writeReg h0.apu _ h0.delays _ _ _)
  split
  · exact h0
  split
  · exact h0.setSram v (by omega)
  · unfold prgWrite
    split
    · exact h0
    · exact { h0 with count := serialWrite_count h0.count _ _ _ }

theorem Inv.memWriteSecond {s : State} (h : s.Inv) (a : Addr) (v : Byte) : (s.memWriteSecond a v).Inv := by
  unfold State.memWriteSecond
  split
  · exact h.setOpenBus v
  · exact h.memWrite a v

theorem Inv.writeBack {s : State} (h : s.Inv) (a : Addr) (old new : Byte) : (s.writeBack a old new).Inv := by
  rw [writeBack_eq]
  split
  · exact (h.memWrite a old).memWriteSecond a new
  · exact h.memWrite a new

/-! ## One dot -/

theorem Inv.renderBackground {s : State} (h : s.Inv) (sl d : Nat) (r : Bool) : (s.renderBackground sl d r).Inv := by
  obtain ⟨_, _, _, _, _, _, _, _, _, e⟩ := s.renderBackground_changes sl d r
  rw [e]
  exact h.setPpu (ppuInv_of h.ppu rfl rfl rfl rfl rfl rfl)

theorem Inv.ppuTick {s : State} (h : s.Inv) : s.ppuTick.Inv := by
  unfold State.ppuTick
  simp only []
  have h1 : (s.preRender s.ppu.scanline s.ppu.dot).Inv := by
    unfold State.preRender
    split
    · refine Inv.setNmiRequest (h.setPpu ?_) false
      exact ⟨h.ppu.oam, h.ppu.nt, h.ppu.pal, h.ppu.palSix, h.ppu.dot, h.ppu.scanline, rfl⟩
    · exact h
  generalize s.preRender s.ppu.scanline s.ppu.dot = s1 at h1
  have h2 := h1.renderBackground s.ppu.scanline s.ppu.dot s.ppu.rendering
  generalize s1.renderBackground s.ppu.scanline s.ppu.dot s.ppu.rendering = s2 at h2
  have h3 : (s2.vblankStart s.ppu.scanline s.ppu.dot).Inv := by
    unfold State.vblankStart
    split
    · have := h2.setPpu (ppuInv_of h2.ppu (q := { s2.ppu with vblank := true }) rfl rfl rfl rfl rfl rfl)
      simp only []
      refine Inv.emit ?_ _
      split
      · exact this.setNmiRequest true
      · exact this
    · exact h2
  generalize s2.vblankStart s.ppu.scanline s.ppu.dot = s3 at h3
  have h4 : (s3.renderPixel s.ppu.scanline s.ppu.dot).Inv := by
    unfold State.renderPixel
    split
    · unfold State.emitPixel
      refine Inv.emit ?_ _
      exact h3.setPpu (ppuInv_of h3.ppu rfl rfl rfl rfl rfl rfl)
    · exact h3
  generalize s3.renderPixel s.ppu.scanline s.ppu.dot = s4 at h4
  have hd := h.ppu.dot
  have hs := h.ppu.scanline
  have pos : ∀ d sl, d ≤ 340 → sl ≤ 261 → ({ s4.ppu with dot := d, scanline := sl } : Ppu).Inv :=
    fun d sl hd hs => { h4.ppu with dot := hd, scanline := hs }
  unfold State.advanceDot
  split
  · split
    · exact (h4.setPpu (pos 0 0 (by omega) (by omega))).emit _
    · exact h4.setPpu (pos 0 _ (by omega) (by omega))
  · refine h4.setPpu { h4.ppu with dot := ?_ }
    show s.ppu.dot + 1 ≤ 340
    omega

/-! ## One sound tick -/

theorem lfsrStep_ne (m : Bool) {r : BitVec 15} (h : r ≠ 0) : lfsrStep m r ≠ 0 := by
  intro h0
  apply h
  have hz : ∀ i, (lfsrStep m r).getLsbD i = false := by intro i; rw [h0]; simp
  have hr : ∀ i, i < 14 → r.getLsbD (i + 1) = false := by
    intro i hi
    have := hz i
    unfold lfsrStep at this
    simp only [BitVec.getLsbD_or, Bool.or_eq_false_iff, BitVec.getLsbD_ushiftRight] at this
    rw [Nat.add_comm]
    exact this.1
  have h14 := hz 14
  have h1 := hr 0 (by omega)
  have h6 := hr 5 (by omega)
  have h00 : r.getLsbD 0 = false := by
    unfold lfsrStep at h14
    cases hb : r.getLsbD 0
    · rfl
    · cases m <;> simp_all
  apply BitVec.eq_of_getLsbD_eq
  intro i hi
  rcases i with _ | i
  · simpa using h00
  · simpa using hr i (by omega)

theorem bitsLeft_sub {b : BitVec 4} (h : 1 ≤ b.toNat ∧ b.toNat ≤ 8) (h0 : ¬ b - 1 = 0) :
    1 ≤ (b - 1).toNat ∧ (b - 1).toNat ≤ 8 := by
  revert b
  decide

theorem Apu.Inv.clockUnits {a : Apu} (h : a.Inv) : a.clockUnits.Inv := by
  have same : ∀ {b c : Apu}, c.noise.lfsr = b.noise.lfsr → c.dmc = b.dmc → c.fs.delay = b.fs.delay → c.mix = b.mix →
      b.Inv → c.Inv := by
    intro b c h1 h2 h3 h4 hb
    exact ⟨by rw [h1]; exact hb.lfsr, by rw [h2]; exact hb.sampleAddr, by rw [h2]; exact hb.curAddr,
      by rw [h2]; exact hb.bitsLeft, by rw [h3]; exact hb.delay,
      by rw [h4]; exact hb.filter⟩
  have h1 : a.frameStep.Inv := by
    unfold Apu.frameStep
    simp only []
    have k : ∀ {c : Apu}, c.noise.lfsr = a.noise.lfsr → c.dmc = a.dmc → c.fs.delay = a.fs.delay →
        c.mix = a.mix → c.Inv :=
      fun h1 h2 h3 h4 => same h1 h2 h3 h4 h
    split; · exact k rfl rfl rfl rfl
    split; · exact k rfl rfl rfl rfl
    split
    · split; · exact k rfl rfl rfl rfl
      split <;> exact k rfl rfl rfl rfl
    split; · exact k rfl rfl rfl rfl
    split; · exact k rfl rfl rfl rfl
    split <;> exact k rfl rfl rfl rfl
  have h2 : a.frameStep.frameDelayStep.Inv := by
    generalize a.frameStep = b at h1
    unfold Apu.frameDelayStep
    split
    · exact h1
    split
    · simp only []
      split
      · exact ⟨h1.lfsr, h1.sampleAddr, h1.curAddr, h1.bitsLeft, Nat.zero_le 4, h1.filter⟩
      · exact ⟨h1.lfsr, h1.sampleAddr, h1.curAddr, h1.bitsLeft, Nat.zero_le 4, h1.filter⟩
    · exact ⟨h1.lfsr, h1.sampleAddr, h1.curAddr, h1.bitsLeft, by have := h1.delay; simp only []; omega, h1.filter⟩
  unfold Apu.clockUnits
  simp only []
  generalize a.frameStep.frameDelayStep = b at h2
  have hd : 0xC000 ≤ b.dmc.timerClock.sampleAddr.toNat ∧ 0x8000 ≤ b.dmc.timerClock.curAddr.toNat ∧
      (1 ≤ b.dmc.timerClock.bitsLeft.toNat ∧ b.dmc.timerClock.bitsLeft.toNat ≤ 8) := by
    have eight : 1 ≤ (8 : BitVec 4).toNat ∧ (8 : BitVec 4).toNat ≤ 8 := by decide
    unfold Dmc.timerClock
    split
    · unfold Dmc.outputClock
      simp only []
      split
      · split
        · exact ⟨h2.sampleAddr, h2.curAddr, eight⟩
        · exact ⟨h2.sampleAddr, h2.curAddr, eight⟩
      · exact ⟨h2.sampleAddr, h2.curAddr, bitsLeft_sub h2.bitsLeft ‹_›⟩
    · exact ⟨h2.sampleAddr, h2.curAddr, h2.bitsLeft⟩
  have hn : b.noise.timerClock.lfsr ≠ 0 := by
    unfold Noise.timerClock
    split
    · exact lfsrStep_ne _ h2.lfsr
    · exact h2.lfsr
  exact ⟨hn, hd.1, hd.2.1, hd.2.2, h2.delay, h2.filter⟩

theorem dmcNextAddr_ge {a : Addr} (h : 0x8000 ≤ a.toNat) : 0x8000 ≤ (dmcNextAddr a).toNat := by
  unfold dmcNextAddr
  split
  · decide
  · rename_i h0
    have : a.toNat ≠ 0xFFFF := fun e => h0 (BitVec.eq_of_toNat_eq (by simpa using e))
    have := a.isLt
    rw [BitVec.toNat_add]
    simp
    omega

theorem Inv.dmcReader {s : State} (h : s.Inv) : s.dmcReader.Inv := by
  unfold State.dmcReader
  split
  · exact h
  · have h2 := h.memRead s.apu.dmc.curAddr
    simp only []
    refine h2.setApu ⟨h2.apu.lfsr, ?_, ?_, ?_, h2.apu.delay, h2.apu.filter⟩ <;> simp only [Dmc.take]
    · split <;> exact h2.apu.sampleAddr
    · split
      · exact Nat.le_trans (by decide) h2.apu.sampleAddr
      · exact dmcNextAddr_ge h2.apu.curAddr
    · split <;> exact h2.apu.bitsLeft

theorem Inv.mixerStep {s : State} (h : s.Inv) : s.mixerStep.Inv := by
  unfold State.mixerStep
  have h2 : ({ s.apu with mix := (s.apu.accumulate.advance s.params.samplePeriod).1, ticks := s.apu.ticks + 1 } : Apu).Inv :=
    ⟨h.apu.lfsr, h.apu.sampleAddr, h.apu.curAddr, h.apu.bitsLeft, h.apu.delay,
      Mixer.advance_wf (m := s.apu.accumulate) h.apu.filter _⟩
  exact h.congr rfl rfl rfl h.status rfl h.ppu h2 h.align rfl h.sync

theorem Inv.apuTick {s : State} (h : s.Inv) : s.apuTick.Inv :=
  ((h.setApu (Apu.Inv.clockUnits h.apu)).dmcReader).mixerStep

theorem Inv.cycleTick {s : State} (h : s.Inv) : s.cycleTick.Inv := h.ppuTick.ppuTick.ppuTick.apuTick

theorem Inv.replay : ∀ (n : Nat) {s : State}, s.Inv → (replay n s).Inv
  | 0, _, h => h
  | n + 1, _, h => Inv.replay n h.cycleTick

end State
end Sys2Proof.Machine
end

