-- ==== Sys2Proof/Laws/Operands.lean ====
section
/-! SUPPORT. What operand access, stack access and exception entry do: one lemma per field that matters, and the invariant. -/

namespace Sys2Proof.Machine.State

/-! ## Operands -/

@[simp] theorem effAddr_regs (o : Operand) (s : State) : (s.effAddr o).2.regs = s.regs := by
  cases o <;> simp [effAddr, readPointer]

@[simp] theorem effAddr_cycles (o : Operand) (s : State) : (s.effAddr o).2.cycles = s.cycles := by
  cases o <;> simp [effAddr, readPointer]

@[simp] theorem effAddr_params (o : Operand) (s : State) : (s.effAddr o).2.params = s.params := by
  cases o <;> simp [effAddr, readPointer]

/-- Computing an address changes at most the open-bus latch: pointers lie in the zero page. -/
theorem effAddr_changes (o : Operand) (s : State) : ∃ v, (s.effAddr o).2 = s.setOpenBus v := by
  cases o <;> first
    | exact ⟨s.openBus, rfl⟩
    | (simp only [effAddr, readPointer, memRead_zext]; exact ⟨_, rfl⟩)

/-- An operand that names memory. -/
def namesMemory : Operand → Bool
  | .acc | .imm _ => false
  | .zp _ | .zpx _ | .zpy _ | .izx _ | .izy _ | .abs _ | .abx _ | .aby _ => true

/-- Reading an operand in memory: the address, the penalty's read, the data read (R412). -/
theorem readOperand_eq {o : Operand} (h : namesMemory o = true) (s : State) :
    s.readOperand o = ((s.effAddr o).2.crossPenalty o (s.effAddr o).1).memRead (s.effAddr o).1.ea := by
  cases o <;> first | rfl | simp [namesMemory] at h

/-- Storing to an operand in memory (R412). -/
theorem storeOperand_eq {o : Operand} (h : namesMemory o = true) (v : Byte) (s : State) :
    s.storeOperand o v = ((s.effAddr o).2.dummyRead o (s.effAddr o).1).memWrite (s.effAddr o).1.ea v := by
  cases o <;> first | rfl | simp [namesMemory] at h

@[simp] theorem crossPenalty_regs (o : Operand) (e : EffAddr) (s : State) : (s.crossPenalty o e).regs = s.regs := by
  unfold crossPenalty
  split <;> simp

@[simp] theorem crossPenalty_readLoc (o : Operand) (e : EffAddr) (s : State) (l : Loc) :
    (s.crossPenalty o e).readLoc l = s.readLoc l := by
  unfold crossPenalty
  split
  · rw [← memRead_readLoc s e.uncorr l]
    exact readLoc_congr rfl rfl rfl rfl rfl rfl rfl rfl rfl l
  · rfl

@[simp] theorem dummyRead_regs (o : Operand) (e : EffAddr) (s : State) : (s.dummyRead o e).regs = s.regs := by
  unfold dummyRead
  split <;> simp

@[simp] theorem dummyRead_cycles (o : Operand) (e : EffAddr) (s : State) : (s.dummyRead o e).cycles = s.cycles := by
  unfold dummyRead
  split <;> simp

@[simp] theorem dummyRead_params (o : Operand) (e : EffAddr) (s : State) : (s.dummyRead o e).params = s.params := by
  unfold dummyRead
  split <;> simp

@[simp] theorem dummyRead_readLoc (o : Operand) (e : EffAddr) (s : State) (l : Loc) :
    (s.dummyRead o e).readLoc l = s.readLoc l := by
  unfold dummyRead
  split
  · exact memRead_readLoc s _ l
  · rfl

@[simp] theorem effAddr_readLoc (o : Operand) (s : State) (l : Loc) : (s.effAddr o).2.readLoc l = s.readLoc l := by
  obtain ⟨v, h⟩ := effAddr_changes o s
  rw [h]
  exact readLoc_congr rfl rfl rfl rfl rfl rfl rfl rfl rfl l

/-- Reading an operand changes no register. -/
@[simp] theorem readOperand_regs (o : Operand) (s : State) : (s.readOperand o).2.regs = s.regs := by
  cases h : namesMemory o
  · cases o <;> first | rfl | simp [namesMemory] at h
  · rw [readOperand_eq h]; simp

/-- Reading an operand changes no byte of storage. -/
@[simp] theorem readOperand_readLoc (o : Operand) (s : State) (l : Loc) : (s.readOperand o).2.readLoc l = s.readLoc l := by
  cases h : namesMemory o
  · cases o <;> first | rfl | simp [namesMemory] at h
  · rw [readOperand_eq h]; simp

/-- Reading an operand costs a cycle more exactly when it is indexed and crosses a page (R420). -/
theorem readOperand_cycles (o : Operand) (s : State) :
    (s.readOperand o).2.cycles = s.cycles + (if indexedMode o && (s.effAddr o).1.crossed then 1 else 0) := by
  cases h : namesMemory o
  · cases o <;> first | rfl | simp [namesMemory] at h
  · rw [readOperand_eq h, memRead_cycles, crossPenalty]
    split <;> simp_all

@[simp] theorem memWriteSecond_regs (s : State) (a : Addr) (v : Byte) : (s.memWriteSecond a v).regs = s.regs := by
  unfold memWriteSecond
  split <;> simp

@[simp] theorem memWriteSecond_cycles (s : State) (a : Addr) (v : Byte) : (s.memWriteSecond a v).cycles = s.cycles := by
  unfold memWriteSecond
  split <;> simp

@[simp] theorem writeBack_regs (s : State) (a : Addr) (old new : Byte) : (s.writeBack a old new).regs = s.regs := by
  rw [writeBack_eq]
  split <;> simp

@[simp] theorem writeBack_cycles (s : State) (a : Addr) (old new : Byte) : (s.writeBack a old new).cycles = s.cycles := by
  rw [writeBack_eq]
  split <;> simp

/-- Storing changes no register and takes no cycle of its own (R422). -/
@[simp] theorem storeOperand_regs (o : Operand) (v : Byte) (s : State) : (s.storeOperand o v).regs = s.regs := by
  cases h : namesMemory o
  · cases o <;> first | rfl | simp [namesMemory] at h
  · rw [storeOperand_eq h]; simp

@[simp] theorem storeOperand_cycles (o : Operand) (v : Byte) (s : State) : (s.storeOperand o v).cycles = s.cycles := by
  cases h : namesMemory o
  · cases o <;> first | rfl | simp [namesMemory] at h
  · rw [storeOperand_eq h]; simp

@[simp] theorem oldByte_regs (o : Operand) (s : State) : (s.oldByte o).2.regs = s.regs := by simp [oldByte]

@[simp] theorem oldByte_cycles (o : Operand) (s : State) : (s.oldByte o).2.cycles = s.cycles := by simp [oldByte]

@[simp] theorem oldByte_readLoc (o : Operand) (s : State) (l : Loc) : (s.oldByte o).2.readLoc l = s.readLoc l := by
  simp [oldByte]

/-- A read-modify-write of memory (R412). -/
theorem modifyOperand_eq {o : Operand} (h : namesMemory o = true) (f : Byte → Byte → Byte × Byte) (s : State) :
    s.modifyOperand o f =
      ((f (s.oldByte o).1 s.regs.p).1,
       ((s.oldByte o).2.setP (f (s.oldByte o).1 s.regs.p).2).writeBack (s.effAddr o).1.ea (s.oldByte o).1
         (f (s.oldByte o).1 s.regs.p).1) := by
  rw [← oldByte_regs o s]
  cases o <;> first | rfl | simp [namesMemory] at h

/-- A read-modify-write of memory writes no register but P, as its function says. -/
theorem modifyOperand_regs {o : Operand} (h : namesMemory o = true) (f : Byte → Byte → Byte × Byte) (s : State) :
    (s.modifyOperand o f).2.regs = { s.regs with p := (f (s.oldByte o).1 s.regs.p).2 } := by
  rw [modifyOperand_eq h]
  simp

/-- A read-modify-write of memory takes no cycle of its own (R421). -/
theorem modifyOperand_cycles {o : Operand} (h : namesMemory o = true) (f : Byte → Byte → Byte × Byte) (s : State) :
    (s.modifyOperand o f).2.cycles = s.cycles := by
  rw [modifyOperand_eq h]
  simp

/-! ## The stack -/

/-- A push writes page one of work RAM (R430). -/
theorem push_eq (s : State) (v : Byte) :
    s.push v = ((s.setOpenBus v).setRam (0x100 + s.regs.sp.toNat) v).setSp (s.regs.sp - 1) := by
  simp [push]

/-- A pull reads page one of work RAM (R430). -/
theorem pull_eq (s : State) :
    s.pull = (s.ramByte (0x100 + (s.regs.sp + 1).toNat),
      (s.setSp (s.regs.sp + 1)).setOpenBus (s.ramByte (0x100 + (s.regs.sp + 1).toNat))) := by
  unfold pull
  rw [memRead_stackAddr]
  rfl

/-! ## The invariant -/

theorem Inv.effAddr {s : State} (h : s.Inv) (o : Operand) : (s.effAddr o).2.Inv := by
  obtain ⟨v, e⟩ := effAddr_changes o s
  rw [e]
  exact h.setOpenBus v

theorem Inv.crossPenalty {s : State} (h : s.Inv) (o : Operand) (e : EffAddr) : (s.crossPenalty o e).Inv := by
  unfold State.crossPenalty
  split
  · exact (h.memRead _).addCycles 1
  · exact h

theorem Inv.dummyRead {s : State} (h : s.Inv) (o : Operand) (e : EffAddr) : (s.dummyRead o e).Inv := by
  unfold State.dummyRead
  split
  · exact h.memRead _
  · exact h

theorem Inv.readOperand {s : State} (h : s.Inv) (o : Operand) : (s.readOperand o).2.Inv := by
  cases hm : namesMemory o
  · cases o <;> first | exact h | simp [namesMemory] at hm
  · rw [readOperand_eq hm]
    exact ((h.effAddr o).crossPenalty o _).memRead _

theorem Inv.storeOperand {s : State} (h : s.Inv) (o : Operand) (v : Byte) : (s.storeOperand o v).Inv := by
  cases hm : namesMemory o
  · cases o <;> first | exact h | simp [namesMemory] at hm
  · rw [storeOperand_eq hm]
    exact ((h.effAddr o).dummyRead o _).memWrite _ _

/-- A read-modify-write whose function keeps P normalised keeps the invariant. -/
theorem Inv.modifyOperand {s : State} (h : s.Inv) (o : Operand) {f : Byte → Byte → Byte × Byte}
    (hf : ∀ v p, statusOk p = true → statusOk (f v p).2 = true) : (s.modifyOperand o f).2.Inv := by
  cases hm : namesMemory o
  · cases o <;> first
      | exact h
      | exact (h.setA _).setP (hf _ _ h.status)
      | simp [namesMemory] at hm
  · have h2 := ((h.effAddr o).dummyRead o (s.effAddr o).1).memRead (s.effAddr o).1.ea
    cases o <;> first
      | exact (h2.setP (hf _ _ h2.status)).writeBack _ _ _
      | simp [namesMemory] at hm

theorem Inv.push {s : State} (h : s.Inv) (v : Byte) : (s.push v).Inv := (h.memWrite _ _).setSp _

theorem Inv.pull {s : State} (h : s.Inv) : s.pull.2.Inv := (h.setSp _).memRead _

theorem Inv.pushWord {s : State} (h : s.Inv) (w : Addr) : (s.pushWord w).Inv := (h.push _).push _

theorem Inv.pullWord {s : State} (h : s.Inv) : s.pullWord.2.Inv := h.pull.pull

theorem Inv.read16 {s : State} (h : s.Inv) (a : Addr) : (s.read16 a).2.Inv := (h.memRead _).memRead _

theorem Inv.fetchByte {s : State} (h : s.Inv) : s.fetchByte.2.Inv := (h.memRead _).setPc _

/-- Changes of the processor's latches keep the invariant. -/
theorem Inv.latches {s : State} (h : s.Inv) (m np nc no hl rf : Bool) (d : Nat) (e : List HostEvent) :
    ({ s with
      irqMaskSample := m, nmiPending := np, nmiConsumedAhead := nc, noPollOnce := no, halted := hl, refused := rf
      draws := d, out := e } : State).Inv :=
  h.congr rfl rfl rfl h.status rfl h.ppu h.apu h.align rfl h.sync

theorem Inv.selectVector {s : State} (h : s.Inv) : s.selectVector.2.Inv := by
  unfold State.selectVector
  split
  · exact h.latches s.irqMaskSample false s.nmiConsumedAhead s.noPollOnce s.halted s.refused s.draws s.out
  split
  · exact h.latches s.irqMaskSample s.nmiPending true s.noPollOnce s.halted s.refused s.draws s.out
  · exact h

theorem Inv.saveFrame {s : State} (h : s.Inv) (k : ExcKind) : (s.saveFrame k).Inv := by
  have h2 := (h.pushWord s.regs.pc).push (pushedP s.regs.p (k == .brk))
  exact h2.setP (statusOk_setFlag .i true h2.status (by decide) (by decide))

theorem Inv.takeException {s : State} (h : s.Inv) (k : ExcKind) : (s.takeException k).Inv := by
  have fin : ∀ {u : State} (v : Addr) (n : Nat), u.Inv →
      ({ ((u.read16 v).2.setPc (u.read16 v).1).addCycles n with noPollOnce := true } : State).Inv := by
    intro u v n hu
    have h3 := ((hu.read16 v).setPc (u.read16 v).1).addCycles n
    exact h3.latches _ _ _ true _ _ _ _
  cases k
  · have h1 := h.latches s.irqMaskSample false s.nmiConsumedAhead s.noPollOnce s.halted s.refused s.draws s.out
    exact fin nmiVector 7 (h1.saveFrame .nmi)
  · exact fin _ 7 (h.saveFrame .irq).selectVector
  · exact fin _ 0 (h.saveFrame .brk).selectVector

theorem Inv.returnFromException {s : State} (h : s.Inv) : s.returnFromException.Inv :=
  ((h.pull.setP (statusOk_pulledP _)).pullWord).setPc _

theorem Inv.storeHighAnd {s : State} (h : s.Inv) (o : Operand) (r : Byte) : (s.storeHighAnd o r).Inv :=
  ((h.effAddr o).memRead _).memWrite _ _

end Sys2Proof.Machine.State
end

