-- ==== Sys2Proof/Laws/PerInstr.lean ====
section
/-! SUPPORT. Facts about the instructions as syntax, one lemma per constructor. -/

namespace Sys2Proof.Laws.Encoding

/-- An instruction has an opcode byte exactly when it is well-formed (R320). -/
def Statement (i : Instr) : Prop := i.opcode.isSome = i.wellFormed

theorem lda (o : Operand) : Statement (.lda o) := by
  cases o <;> rfl

theorem ldx (o : Operand) : Statement (.ldx o) := by
  cases o <;> rfl

theorem ldy (o : Operand) : Statement (.ldy o) := by
  cases o <;> rfl

theorem sta (o : Operand) : Statement (.sta o) := by
  cases o <;> rfl

theorem stx (o : Operand) : Statement (.stx o) := by
  cases o <;> rfl

theorem sty (o : Operand) : Statement (.sty o) := by
  cases o <;> rfl

theorem tax : Statement (.tax) := rfl

theorem tay : Statement (.tay) := rfl

theorem txa : Statement (.txa) := rfl

theorem tya : Statement (.tya) := rfl

theorem tsx : Statement (.tsx) := rfl

theorem txs : Statement (.txs) := rfl

theorem adc (o : Operand) : Statement (.adc o) := by
  cases o <;> rfl

theorem sbc (o : Operand) : Statement (.sbc o) := by
  cases o <;> rfl

theorem and (o : Operand) : Statement (.and o) := by
  cases o <;> rfl

theorem ora (o : Operand) : Statement (.ora o) := by
  cases o <;> rfl

theorem eor (o : Operand) : Statement (.eor o) := by
  cases o <;> rfl

theorem bit (o : Operand) : Statement (.bit o) := by
  cases o <;> rfl

theorem cmp (o : Operand) : Statement (.cmp o) := by
  cases o <;> rfl

theorem cpx (o : Operand) : Statement (.cpx o) := by
  cases o <;> rfl

theorem cpy (o : Operand) : Statement (.cpy o) := by
  cases o <;> rfl

theorem inc (o : Operand) : Statement (.inc o) := by
  cases o <;> rfl

theorem dec (o : Operand) : Statement (.dec o) := by
  cases o <;> rfl

theorem inx : Statement (.inx) := rfl

theorem iny : Statement (.iny) := rfl

theorem dex : Statement (.dex) := rfl

theorem dey : Statement (.dey) := rfl

theorem asl (o : Operand) : Statement (.asl o) := by
  cases o <;> rfl

theorem lsr (o : Operand) : Statement (.lsr o) := by
  cases o <;> rfl

theorem rol (o : Operand) : Statement (.rol o) := by
  cases o <;> rfl

theorem ror (o : Operand) : Statement (.ror o) := by
  cases o <;> rfl

theorem bpl (off : Byte) : Statement (.bpl off) := rfl

theorem bmi (off : Byte) : Statement (.bmi off) := rfl

theorem bvc (off : Byte) : Statement (.bvc off) := rfl

theorem bvs (off : Byte) : Statement (.bvs off) := rfl

theorem bcc (off : Byte) : Statement (.bcc off) := rfl

theorem bcs (off : Byte) : Statement (.bcs off) := rfl

theorem bne (off : Byte) : Statement (.bne off) := rfl

theorem beq (off : Byte) : Statement (.beq off) := rfl

theorem jmpAbs (target : Addr) : Statement (.jmpAbs target) := rfl

theorem jmpInd (ptr : Addr) : Statement (.jmpInd ptr) := rfl

theorem jsr (target : Addr) : Statement (.jsr target) := rfl

theorem rts : Statement (.rts) := rfl

theorem rti : Statement (.rti) := rfl

theorem brk (signature : Byte) : Statement (.brk signature) := rfl

theorem pha : Statement (.pha) := rfl

theorem pla : Statement (.pla) := rfl

theorem php : Statement (.php) := rfl

theorem plp : Statement (.plp) := rfl

theorem clc : Statement (.clc) := rfl

theorem sec : Statement (.sec) := rfl

theorem cli : Statement (.cli) := rfl

theorem sei : Statement (.sei) := rfl

theorem cld : Statement (.cld) := rfl

theorem sed : Statement (.sed) := rfl

theorem clv : Statement (.clv) := rfl

theorem nop : Statement (.nop) := rfl

theorem nopImplied (k : Fin 6) : Statement (.nopImplied k) := by
  fin_cases k <;> rfl

theorem nopImmediate (k : Fin 5) (v : Byte) : Statement (.nopImmediate k v) := by
  fin_cases k <;> rfl

theorem nopMemory (k : Fin 6) (o : Operand) : Statement (.nopMemory k o) := by
  cases o <;> fin_cases k <;> rfl

theorem sbcUnofficial (v : Byte) : Statement (.sbcUnofficial v) := rfl

theorem lax (o : Operand) : Statement (.lax o) := by
  cases o <;> rfl

theorem sax (o : Operand) : Statement (.sax o) := by
  cases o <;> rfl

theorem dcp (o : Operand) : Statement (.dcp o) := by
  cases o <;> rfl

theorem isb (o : Operand) : Statement (.isb o) := by
  cases o <;> rfl

theorem slo (o : Operand) : Statement (.slo o) := by
  cases o <;> rfl

theorem rla (o : Operand) : Statement (.rla o) := by
  cases o <;> rfl

theorem sre (o : Operand) : Statement (.sre o) := by
  cases o <;> rfl

theorem rra (o : Operand) : Statement (.rra o) := by
  cases o <;> rfl

theorem sha (o : Operand) : Statement (.sha o) := by
  cases o <;> rfl

theorem shx (o : Operand) : Statement (.shx o) := by
  cases o <;> rfl

theorem shy (o : Operand) : Statement (.shy o) := by
  cases o <;> rfl

theorem tas (o : Operand) : Statement (.tas o) := by
  cases o <;> rfl

theorem jam (k : Fin 12) : Statement (.jam k) := by
  fin_cases k <;> rfl

theorem anc (k : Fin 2) (v : Byte) : Statement (.anc k v) := by
  fin_cases k <;> rfl

theorem alr (v : Byte) : Statement (.alr v) := rfl

theorem arr (v : Byte) : Statement (.arr v) := rfl

theorem xaa (v : Byte) : Statement (.xaa v) := rfl

theorem lxa (v : Byte) : Statement (.lxa v) := rfl

theorem las (o : Operand) : Statement (.las o) := by
  cases o <;> rfl

theorem axs (v : Byte) : Statement (.axs v) := rfl

end Sys2Proof.Laws.Encoding
end

