-- ==== Sys2Proof/Laws/Regs.lean ====
section
/-! SUPPORT. Bus accesses neither look at the registers nor change them: replacing the registers commutes with each. What a
read-modify-write and the saving of an exception frame do, whole. -/

namespace Sys2Proof.Machine.State

/-- The state with other registers. -/
def withRegs (g : Regs) (s : State) : State := { s with regs := g }

/-- A function applied to both branches of a choice. -/
theorem ite_map {α β : Type} {c : Prop} [Decidable c] (f : α → β) {a b : α} {a' b' : β} (h : a' = f a) (h' : b' = f b) :
    (if c then a' else b') = f (if c then a else b) := by split <;> assumption

/-- The NMI request does not depend on the registers. -/
theorem setNmiRequest_withRegs (s : State) (g : Regs) (r : Bool) :
    (s.withRegs g).setNmiRequest r = (s.setNmiRequest r).withRegs g := by
  unfold setNmiRequest onNmiEdge
  refine ite_map (withRegs g) ?_ rfl
  exact ite_map (withRegs g) rfl rfl

/-- A PPU register write does not depend on them. -/
theorem ppuRegWrite_withRegs (s : State) (g : Regs) (r : Nat) (b : Byte) :
    (s.withRegs g).ppuRegWrite r b = (s.ppuRegWrite r b).withRegs g := by
  unfold ppuRegWrite
  split <;> first | rfl | skip
  · unfold writeCtrl
    exact ite_map (withRegs g) (setNmiRequest_withRegs (s.setPpu _) g _) rfl
  · exact ite_map (withRegs g) rfl rfl
  · exact ite_map (withRegs g) rfl rfl
  · unfold writeData
    have h : ∀ a, (s.withRegs g).ppuWrite a b = (s.ppuWrite a b).withRegs g := by
      intro a
      refine ite_map (withRegs g) ?_ (ite_map _ rfl rfl)
      exact ite_map (withRegs g) rfl rfl
    simp only [h]
    rfl

/-- The address decoder on a write does not depend on them. -/
theorem busWrite_withRegs (s : State) (g : Regs) (a : Addr) (v : Byte) :
    (s.withRegs g).busWrite a v = (s.busWrite a v).withRegs g := by
  unfold busWrite
  refine ite_map (withRegs g) rfl ?_
  refine ite_map (withRegs g) (ppuRegWrite_withRegs s g _ v) ?_
  refine ite_map (withRegs g) ?_ ?_
  · unfold ioWrite
    refine ite_map (withRegs g) rfl ?_
    refine ite_map (withRegs g) ?_ rfl
    exact ite_map (withRegs g) rfl rfl
  refine ite_map (withRegs g) rfl ?_
  refine ite_map (withRegs g) rfl ?_
  unfold prgWrite
  have hm' : (s.withRegs g).cart.mapper = s.cart.mapper := rfl
  rw [hm']
  cases s.cart.mapper <;> rfl

/-- A bus write does not depend on them. -/
theorem memWrite_withRegs (s : State) (g : Regs) (a : Addr) (v : Byte) :
    (s.withRegs g).memWrite a v = (s.memWrite a v).withRegs g := busWrite_withRegs (s.setOpenBus v) g a v

/-- The address decoder on a read does not depend on them. -/
theorem busRead_withRegs (s : State) (g : Regs) (a : Addr) :
    (s.withRegs g).busRead a = ((s.busRead a).1, (s.busRead a).2.withRegs g) := by
  have F : ∀ {c : Prop} [Decidable c] {x y : Byte × State} {x' y'}, x' = (x.1, ((x.2).withRegs g)) →
     y' = (y.1, ((y.2).withRegs g)) → (if c then x' else y') = ((if c then x else y).1, (((if c then x else y).2).withRegs g)) := by
    intro c _ x y x' y' h h'; split <;> assumption
  unfold busRead
  refine F rfl ?_
  refine F ?_ ?_
  · unfold ppuRegRead
    split <;> first | rfl | skip
    unfold readData
    exact F rfl rfl
  refine F ?_ ?_
  · unfold ioRead
    refine F rfl (F ?_ (F rfl rfl))
    unfold readPad1
    exact F rfl rfl
  exact F rfl (F rfl rfl)

/-- A bus read does not depend on them. -/
theorem memRead_withRegs (s : State) (g : Regs) (a : Addr) :
    (s.withRegs g).memRead a = ((s.memRead a).1, (s.memRead a).2.withRegs g) := by
  unfold memRead
  rw [busRead_withRegs]
  rfl

/-- The end of a read-modify-write does not depend on them. -/
theorem writeBack_withRegs (s : State) (g : Regs) (a : Addr) (old new : Byte) :
    (s.withRegs g).writeBack a old new = (s.writeBack a old new).withRegs g := by
  unfold writeBack memWriteSecond
  simp only [memWrite_withRegs]
  refine ite_map (withRegs g) rfl (ite_map (withRegs g) ?_ rfl)
  exact ite_map (withRegs g) rfl rfl

/-! ## Read-modify-write -/

/-- A read-modify-write keeps every byte of storage but those its writes reach (R421). -/
theorem rewritten_keepsBytes (o : Operand) (s : State) (new : Byte) : keepsBytes s (s.rewritten o new) (s.rewrittenLocs o) := by
  intro l hl
  unfold rewrittenLocs at hl
  unfold rewritten
  rw [writeBack_eq]
  simp only [] at hl
  have e : (s.oldByte o).2.params = s.params := by simp [oldByte]
  rw [e]
  split at hl
  · rename_i hp
    simp only [hp, if_true]
    simp only [List.mem_cons, List.not_mem_nil, or_false, not_or] at hl
    unfold memWriteSecond
    split
    · change ((s.oldByte o).2.memWrite _ _).readLoc l = _
      rw [memWrite_keepsBytes _ _ _ l (by simpa using hl.1)]; simp
    · rw [memWrite_keepsBytes _ _ _ l (by simpa using hl.2), memWrite_keepsBytes _ _ _ l (by simpa using hl.1)]; simp
  · rename_i hp
    simp only [hp]
    rw [if_neg (by simp), memWrite_keepsBytes _ _ _ l hl]; simp

/-- The last place a read-modify-write reaches holds the new byte (R421). -/
theorem rewritten_stores (o : Operand) (s : State) (new : Byte) {l : Loc}
    (hl : (s.rewrittenLocs o).getLast? = some (some l)) : (s.rewritten o new).readLoc l = storedByte l new := by
  unfold rewrittenLocs at hl
  unfold rewritten
  rw [writeBack_eq]
  simp only [] at hl
  have e : (s.oldByte o).2.params = s.params := by simp [oldByte]
  rw [e]
  split at hl
  · rename_i hp
    simp only [hp, if_true]
    simp at hl
    unfold memWriteSecond
    split
    · rename_i hc
      exfalso
      unfold storeLoc at hl
      have := hc.2.2
      split at hl; · omega
      split at hl; · omega
      split at hl; · omega
      simp at hl
    · exact memWrite_stores _ _ _ hl
  · rename_i hp
    simp only [hp]
    simp at hl
    rw [if_neg (by simp)]
    exact memWrite_stores _ _ _ hl

/-- A read-modify-write of memory: the memory and devices rewritten, and the status word its function gives (R412). -/
theorem modifyOperand_rewritten (o : Operand) (h : namesMemory o = true) (f : Byte → Byte → Byte × Byte) (s : State) :
    s.modifyOperand o f =
      ((f (s.oldByte o).1 s.regs.p).1,
       (s.rewritten o (f (s.oldByte o).1 s.regs.p).1).withRegs
         { s.regs with p := (f (s.oldByte o).1 s.regs.p).2 }) := by
  rw [modifyOperand_eq h]
  have : ((s.oldByte o).2.setP (f (s.oldByte o).1 s.regs.p).2) =
      (s.oldByte o).2.withRegs { s.regs with p := (f (s.oldByte o).1 s.regs.p).2 } := by
    unfold setP withRegs; simp
  rw [this, writeBack_withRegs]; rfl

/-! ## Exceptions -/

/-- The frame an exception saves: PC and P in the three stack bytes below SP, I set (R820, R640). -/
theorem saveFrame_eq (k : ExcKind) (s : State) :
    s.saveFrame k =
      { s with
        ram := ((s.ram.write (0x100 + s.regs.sp.toNat) (hiByte s.regs.pc)).write (0x100 + (s.regs.sp - 1).toNat)
          (loByte s.regs.pc)).write (0x100 + (s.regs.sp - 2).toNat) (pushedP s.regs.p (k == .brk))
        openBus := pushedP s.regs.p (k == .brk)
        regs := { s.regs with sp := s.regs.sp - 3, p := setFlag s.regs.p .i true } } := by
  unfold saveFrame pushWord
  simp only [push_eq]
  have h2 : s.regs.sp - 1 - 1 = s.regs.sp - 2 := by bv_omega
  have h3 : s.regs.sp - 2 - 1 = s.regs.sp - 3 := by bv_omega
  simp only [setOpenBus, setRam, setSp, setP, h2, h3]

end Sys2Proof.Machine.State
end

