-- ==== Sys2Proof/Laws/Step.lean ====
section
/-! SUPPORT. The step and the processor call, inverted once: what led to a next state. What power-on gives. -/

namespace Sys2Proof.Machine

/-- A dot does not touch the cycle counter. -/
@[simp] theorem State.ppuTick_cycles (s : State) : s.ppuTick.cycles = s.cycles := by
  have e : ∀ u : State, u.onNmiEdge.cycles = u.cycles := by
    intro u; unfold State.onNmiEdge; split <;> rfl
  have n : ∀ (u : State) r, (u.setNmiRequest r).cycles = u.cycles := by
    intro u r; unfold State.setNmiRequest; simp only []; split
    · exact e _
    · rfl
  unfold State.ppuTick
  simp only []
  have h5 : ∀ (u : State) i j, (u.advanceDot i j).cycles = u.cycles := by
    intro u i j; unfold State.advanceDot; split <;> [split <;> rfl; rfl]
  have h4 : ∀ (u : State) i j, (u.renderPixel i j).cycles = u.cycles := by
    intro u i j; unfold State.renderPixel; split <;> rfl
  have h3 : ∀ (u : State) i j, (u.vblankStart i j).cycles = u.cycles := by
    intro u i j; unfold State.vblankStart; split
    · simp only []; split
      · exact n _ _
      · rfl
    · rfl
  have h2 : ∀ (u : State) i j r, (u.renderBackground i j r).cycles = u.cycles := by
    intro u i j r
    obtain ⟨_, _, _, _, _, _, _, _, _, e⟩ := u.renderBackground_changes i j r
    rw [e]
    rfl
  have h1 : ∀ (u : State) i j, (u.preRender i j).cycles = u.cycles := by
    intro u i j; unfold State.preRender; split
    · exact n _ _
    · rfl
  rw [h5, h4, h3, h2, h1]

/-- A sound tick does not touch the cycle counter. -/
@[simp] theorem State.apuTick_cycles (s : State) : s.apuTick.cycles = s.cycles := by
  have m : ∀ u : State, u.mixerStep.cycles = u.cycles := fun _ => rfl
  have d : ∀ u : State, u.dmcReader.cycles = u.cycles := by
    intro u; unfold State.dmcReader; split
    · rfl
    · exact State.memRead_cycles u _
  unfold State.apuTick
  rw [m, d]
  rfl

/-- A replayed cycle does not touch the cycle counter. -/
@[simp] theorem State.cycleTick_cycles (s : State) : s.cycleTick.cycles = s.cycles := by simp [State.cycleTick]

/-- A step that goes on is a processor call that goes on, caught up (R862). -/
theorem step_next {s t : State} (h : step s = .next t) :
    ∃ u, ({ s with out := [] } : State).processorCall = .next u ∧ t = u.catchUp := by
  unfold step at h
  split at h
  · rename_i u e
    injection h with h
    exact ⟨u, e, h.symm⟩
  · simp at h
  · simp at h

/-- An executed instruction that goes on is its meaning, finished (R861). -/
theorem executeInstruction_next {s t : State} (h : s.executeInstruction = .next t) :
    ∃ u, exec s.fetchInstr.instr s.fetchInstr.state = .next u ∧ t = s.finishInstr s.fetchInstr.instr u := by
  unfold State.executeInstruction at h
  split at h
  · rename_i u e
    injection h with h
    exact ⟨u, e, h.symm⟩
  · simp at h
  · simp at h

/-- A halted call changes nothing, or makes one bus read. -/
theorem refetchJam_cases (s : State) : s.refetchJam = s ∨ s.refetchJam = (s.memRead s.regs.pc).2 := by
  unfold State.refetchJam
  split
  · exact .inl rfl
  · exact .inr rfl

theorem Inv.refetchJam {s : State} (h : s.Inv) : s.refetchJam.Inv := by
  rcases refetchJam_cases s with e | e <;> rw [e]
  · exact h
  · exact h.memRead _

/-- A processor call that goes on did one of six things (R861). -/
theorem processorCall_next {s t : State} (h : s.processorCall = .next t) :
    s.refused = false ∧
    ((s.halted = true ∧ t = s.refetchJam) ∨
     (s.halted = false ∧ s.dma.active = true ∧ t = s.dmaMicroStep.sampleMask) ∨
     (s.halted = false ∧ s.dma.active = false ∧ s.noPollOnce = true ∧
       ({ s with noPollOnce := false } : State).executeInstruction = .next t) ∨
     (s.halted = false ∧ s.dma.active = false ∧ s.noPollOnce = false ∧ s.nmiPending = true ∧
       t = (s.takeException .nmi).sampleMask) ∨
     (s.halted = false ∧ s.dma.active = false ∧ s.noPollOnce = false ∧ s.nmiPending = false ∧
       (s.apu.irqLine && !s.irqMaskSample) = true ∧ t = (s.takeException .irq).sampleMask) ∨
     (s.halted = false ∧ s.dma.active = false ∧ s.noPollOnce = false ∧ s.nmiPending = false ∧
       (s.apu.irqLine && !s.irqMaskSample) = false ∧ s.executeInstruction = .next t)) := by
  unfold State.processorCall at h
  cases h0 : s.refused <;> simp only [h0, if_true, if_false, Bool.false_eq_true] at h
  · refine ⟨rfl, ?_⟩
    cases h1 : s.halted <;> simp only [h1, if_true, if_false, Bool.false_eq_true] at h
    · cases h2 : s.dma.active <;> simp only [h2, if_true, if_false, Bool.false_eq_true] at h
      · cases h3 : s.noPollOnce <;> simp only [h3, if_true, if_false, Bool.false_eq_true] at h
        · cases h4 : s.nmiPending <;> simp only [h4, if_true, if_false, Bool.false_eq_true] at h
          · cases h5 : (s.apu.irqLine && !s.irqMaskSample) <;> simp only [h5, if_true, if_false, Bool.false_eq_true] at h
            · simp_all
            · injection h with h
              simp_all
          · injection h with h
            simp_all
        · simp_all
      · injection h with h
        simp_all
    · injection h with h
      simp_all
  · simp at h

/-- The next state's devices are level with the processor (R860). -/
theorem catchUp_lastSync (s : State) : s.catchUp.lastSync = s.catchUp.cycles := by
  have h : ∀ (n : Nat) (u : State), (State.replay n u).cycles = u.cycles := by
    intro n
    induction n with
    | zero => intro u; rfl
    | succ n ih =>
      intro u
      rw [State.replay, ih]
      exact State.cycleTick_cycles u
  exact (h _ s).symm

/-- Power-on (R1100, R1101): PC is the reset vector and its high byte stands on the open bus. -/
theorem powerOn_eq (c : Cart) (p : Params) :
    let s := State.powered c p (initLatch p) 0
    State.powerOn c p = State.powered c p (s.prgRead 0xFFFD) (join (s.prgRead 0xFFFD) (s.prgRead 0xFFFC)) := rfl

/-- The trace harness (R1102, R1105): PC is $C000, everything else as power-on with zero for INIT_MEM and INIT_OPEN_BUS. -/
theorem powerOnTrace_eq (c : Cart) (p : Params) :
    State.powerOnTrace c p =
      State.powered c p.traceHarness ((State.powered c p.traceHarness 0 0).prgRead 0xFFFD) 0xC000 := rfl

/-- The blank cartridge reads $00 throughout program space (log 1). -/
theorem prgRead_blank (p : Params) (b : Byte) (a : Nat) : (State.powered Cart.blank p b 0).prgRead a = 0 := by
  rfl

/-- The reset states are the power-on sequence with the blank cartridge (R1100, R1101; log 1). -/
theorem powerOn_blank (p : Params) : State.powerOn Cart.blank p = State.resetWith p := by
  rw [powerOn_eq, prgRead_blank, prgRead_blank]
  rfl

/-- `State.reset` has the spec's defaults but for EXTRA_UNOFFICIAL (log 4). -/
theorem reset_params : { State.reset with params := Params.standard } = State.resetDefault := rfl

end Sys2Proof.Machine
end

