-- ==== Sys2Proof/Tests/Slice0.lean ====
section
/-! SUPPORT. The model's own tests. Expected values come from spec/95_test_vectors.md (named in the comments) or from hand
calculation by the rules cited; words are written out from the tables of spec/30_encoding.md. The witnesses at the end meet
the hypotheses of the obligations. -/

namespace Sys2Proof.Tests
open Sys2Proof.Machine

/-! ## Helpers -/

/-- What an outcome's next state shows. -/
def shows {α : Type} (r : Result) (f : State → α) : Option α :=
  match r with
  | .next t => some (f t)
  | .fault _ => none
  | .refused _ => none

theorem next_of_shows {α : Type} {r : Result} {f : State → α} {a : α} (h : shows r f = some a) : ∃ t, r = .next t ∧ f t = a := by
  cases r with
  | next t => exact ⟨t, rfl, Option.some.inj h⟩
  | fault _ => exact absurd h (by simp [shows])
  | refused _ => exact absurd h (by simp [shows])

/-- The power-on state "S0" of spec/95 (INIT_MEM = 0), with the devices level with the processor. -/
def s0 : State := { State.reset with params := Params.standard.traceHarness, lastSync := 7 }

/-- S0 with registers A, X, Y, SP, P and PC. -/
def at' (pc : Addr) (a x y sp p : Byte) : State := { s0 with regs := ⟨a, x, y, sp, p, pc⟩ }

/-- S0 at $C000 with A, X, Y and P. -/
def axyp (a x y p : Byte) : State := at' 0xC000 a x y 0xFD p

/-- A byte of work RAM set. -/
def mem (s : State) (i : Nat) (v : Byte) : State := s.setRam i v

/-- The processor call that runs the three bytes given, placed at PC. -/
def run (s : State) (b0 b1 b2 : Byte) : Result := (s.placeInstr b0 b1 b2).processorCall

/-- A, P and `cycles`. -/
def apc (t : State) : List Nat := [t.regs.a.toNat, t.regs.p.toNat, t.cycles]

/-- X, P and `cycles`. -/
def xpc (t : State) : List Nat := [t.regs.x.toNat, t.regs.p.toNat, t.cycles]

/-- Y, P and `cycles`. -/
def ypc (t : State) : List Nat := [t.regs.y.toNat, t.regs.p.toNat, t.cycles]

/-- Work RAM at `i`, A, X, P and `cycles`. -/
def memApc (i : Nat) (t : State) : List Nat := [(t.ramByte i).toNat, t.regs.a.toNat, t.regs.x.toNat, t.regs.p.toNat, t.cycles]

/-- PC, SP, P and `cycles`. -/
def pcSp (t : State) : List Nat := [t.regs.pc.toNat, t.regs.sp.toNat, t.regs.p.toNat, t.cycles]

/-! ## WellFormed: one ill-formed term for each check -/

theorem test_illformed_accForms : Instr.wellFormed (.lda .acc) = false := by decide
theorem test_illformed_accForms_sbc : Instr.wellFormed (.sbc (.zpy 0)) = false := by decide
theorem test_illformed_ldx : Instr.wellFormed (.ldx (.zpx 0)) = false := by decide
theorem test_illformed_ldy : Instr.wellFormed (.ldy (.aby 0)) = false := by decide
theorem test_illformed_sta : Instr.wellFormed (.sta (.imm 0)) = false := by decide
theorem test_illformed_stx : Instr.wellFormed (.stx (.zpx 0)) = false := by decide
theorem test_illformed_sty : Instr.wellFormed (.sty (.zpy 0)) = false := by decide
theorem test_illformed_bit : Instr.wellFormed (.bit (.imm 0)) = false := by decide
theorem test_illformed_cpx : Instr.wellFormed (.cpx (.zpx 0)) = false := by decide
theorem test_illformed_inc : Instr.wellFormed (.inc .acc) = false := by decide
theorem test_illformed_shift : Instr.wellFormed (.asl (.aby 0)) = false := by decide
theorem test_illformed_nopMemory : Instr.wellFormed (.nopMemory 3 (.zp 0)) = false := by decide
theorem test_illformed_lax : Instr.wellFormed (.lax (.imm 0)) = false := by decide
theorem test_illformed_sax : Instr.wellFormed (.sax (.zpx 0)) = false := by decide
theorem test_illformed_combo : Instr.wellFormed (.dcp .acc) = false := by decide
theorem test_illformed_sha : Instr.wellFormed (.sha (.abs 0)) = false := by decide
theorem test_illformed_shx : Instr.wellFormed (.shx (.abx 0)) = false := by decide
theorem test_illformed_shy : Instr.wellFormed (.shy (.aby 0)) = false := by decide
theorem test_illformed_tas : Instr.wellFormed (.tas (.abx 0)) = false := by decide
theorem test_illformed_las : Instr.wellFormed (.las (.zp 0)) = false := by decide

/-! ## Decoding: words written out from the tables of R302 and R320, every constructor -/

theorem test_decode_loads :
    decodeTableWord 16 0x55A9 = some (.lda (.imm 0x55)) ∧
    decodeTableWord 16 0x20A1 = some (.lda (.izx 0x20)) ∧
    decodeTableWord 16 0x10B6 = some (.ldx (.zpy 0x10)) ∧
    decodeTableWord 24 0x1234BC = some (.ldy (.abx 0x1234)) ∧
    decodeTableWord 24 0x123499 = some (.sta (.aby 0x1234)) ∧
    decodeTableWord 16 0x1086 = some (.stx (.zp 0x10)) ∧
    decodeTableWord 16 0x1094 = some (.sty (.zpx 0x10)) := by decide

theorem test_decode_transfers :
    decodeTableWord 8 0xAA = some (.tax) ∧
    decodeTableWord 8 0xA8 = some (.tay) ∧
    decodeTableWord 8 0x8A = some (.txa) ∧
    decodeTableWord 8 0x98 = some (.tya) ∧
    decodeTableWord 8 0xBA = some (.tsx) ∧
    decodeTableWord 8 0x9A = some (.txs) := by decide

theorem test_decode_arithmetic :
    decodeTableWord 24 0x12346D = some (.adc (.abs 0x1234)) ∧
    decodeTableWord 16 0x20F1 = some (.sbc (.izy 0x20)) ∧
    decodeTableWord 16 0xF29 = some (.and (.imm 0x0F)) ∧
    decodeTableWord 16 0x1005 = some (.ora (.zp 0x10)) ∧
    decodeTableWord 24 0x12345D = some (.eor (.abx 0x1234)) ∧
    decodeTableWord 16 0x1024 = some (.bit (.zp 0x10)) := by decide

theorem test_decode_compares :
    decodeTableWord 24 0x1234D9 = some (.cmp (.aby 0x1234)) ∧
    decodeTableWord 16 0x1E0 = some (.cpx (.imm 0x01)) ∧
    decodeTableWord 24 0x1234CC = some (.cpy (.abs 0x1234)) := by decide

theorem test_decode_counts :
    decodeTableWord 16 0x10F6 = some (.inc (.zpx 0x10)) ∧
    decodeTableWord 24 0x1234DE = some (.dec (.abx 0x1234)) ∧
    decodeTableWord 8 0xE8 = some (.inx) ∧
    decodeTableWord 8 0xC8 = some (.iny) ∧
    decodeTableWord 8 0xCA = some (.dex) ∧
    decodeTableWord 8 0x88 = some (.dey) := by decide

theorem test_decode_shifts :
    decodeTableWord 8 0xA = some (.asl .acc) ∧
    decodeTableWord 16 0x1046 = some (.lsr (.zp 0x10)) ∧
    decodeTableWord 24 0x12342E = some (.rol (.abs 0x1234)) ∧
    decodeTableWord 16 0x1076 = some (.ror (.zpx 0x10)) := by decide

theorem test_decode_branches :
    decodeTableWord 16 0x210 = some (.bpl 0x02) ∧
    decodeTableWord 16 0xFE30 = some (.bmi 0xFE) ∧
    decodeTableWord 16 0x250 = some (.bvc 0x02) ∧
    decodeTableWord 16 0x270 = some (.bvs 0x02) ∧
    decodeTableWord 16 0x290 = some (.bcc 0x02) ∧
    decodeTableWord 16 0x2B0 = some (.bcs 0x02) ∧
    decodeTableWord 16 0x80D0 = some (.bne 0x80) ∧
    decodeTableWord 16 0x80F0 = some (.beq 0x80) := by decide

theorem test_decode_jumps :
    decodeTableWord 24 0x12344C = some (.jmpAbs 0x1234) ∧
    decodeTableWord 24 0x2FF6C = some (.jmpInd 0x02FF) ∧
    decodeTableWord 24 0x802020 = some (.jsr 0x8020) ∧
    decodeTableWord 8 0x60 = some (.rts) ∧
    decodeTableWord 8 0x40 = some (.rti) ∧
    decodeTableWord 16 0xEA00 = some (.brk 0xEA) := by decide

theorem test_decode_stack_flags :
    decodeTableWord 8 0x48 = some (.pha) ∧
    decodeTableWord 8 0x68 = some (.pla) ∧
    decodeTableWord 8 0x8 = some (.php) ∧
    decodeTableWord 8 0x28 = some (.plp) ∧
    decodeTableWord 8 0x18 = some (.clc) ∧
    decodeTableWord 8 0x38 = some (.sec) ∧
    decodeTableWord 8 0x58 = some (.cli) ∧
    decodeTableWord 8 0x78 = some (.sei) ∧
    decodeTableWord 8 0xD8 = some (.cld) ∧
    decodeTableWord 8 0xF8 = some (.sed) ∧
    decodeTableWord 8 0xB8 = some (.clv) ∧
    decodeTableWord 8 0xEA = some (.nop) := by decide

theorem test_decode_unofficial_nops :
    decodeTableWord 8 0x1A = some (.nopImplied 0) ∧
    decodeTableWord 8 0xFA = some (.nopImplied 5) ∧
    decodeTableWord 16 0x5580 = some (.nopImmediate 0 0x55) ∧
    decodeTableWord 16 0x55E2 = some (.nopImmediate 4 0x55) ∧
    decodeTableWord 16 0x1004 = some (.nopMemory 0 (.zp 0x10)) ∧
    decodeTableWord 24 0x12340C = some (.nopMemory 0 (.abs 0x1234)) ∧
    decodeTableWord 24 0x12F01C = some (.nopMemory 0 (.abx 0x12F0)) ∧
    decodeTableWord 16 0x10F4 = some (.nopMemory 5 (.zpx 0x10)) ∧
    decodeTableWord 16 0x1EB = some (.sbcUnofficial 0x01) := by decide

theorem test_decode_unofficial_accesses :
    decodeTableWord 16 0x10A7 = some (.lax (.zp 0x10)) ∧
    decodeTableWord 24 0x1234BF = some (.lax (.aby 0x1234)) ∧
    decodeTableWord 16 0x1097 = some (.sax (.zpy 0x10)) ∧
    decodeTableWord 16 0x20C3 = some (.dcp (.izx 0x20)) ∧
    decodeTableWord 24 0x1234EF = some (.isb (.abs 0x1234)) ∧
    decodeTableWord 16 0x2013 = some (.slo (.izy 0x20)) ∧
    decodeTableWord 16 0x1037 = some (.rla (.zpx 0x10)) ∧
    decodeTableWord 24 0x12345B = some (.sre (.aby 0x1234)) ∧
    decodeTableWord 24 0x12347F = some (.rra (.abx 0x1234)) := by decide

theorem test_decode_high_and_stores :
    decodeTableWord 16 0x2093 = some (.sha (.izy 0x20)) ∧
    decodeTableWord 24 0x12349F = some (.sha (.aby 0x1234)) ∧
    decodeTableWord 24 0x2F09E = some (.shx (.aby 0x02F0)) ∧
    decodeTableWord 24 0x12349C = some (.shy (.abx 0x1234)) ∧
    decodeTableWord 24 0x12349B = some (.tas (.aby 0x1234)) := by decide

theorem test_decode_halt_and_open :
    decodeTableWord 8 0x2 = some (.jam 0) ∧
    decodeTableWord 8 0xF2 = some (.jam 11) ∧
    decodeTableWord 16 0x800B = some (.anc 0 0x80) ∧
    decodeTableWord 16 0x802B = some (.anc 1 0x80) ∧
    decodeTableWord 16 0x34B = some (.alr 0x03) ∧
    decodeTableWord 16 0xFF6B = some (.arr 0xFF) ∧
    decodeTableWord 16 0xF8B = some (.xaa 0x0F) ∧
    decodeTableWord 16 0xFAB = some (.lxa 0x0F) ∧
    decodeTableWord 24 0x1234BB = some (.las (.aby 0x1234)) ∧
    decodeTableWord 16 0x1CB = some (.axs 0x01) := by decide

theorem test_decode_rejects_by_name :
    decode [] = .error .noBytes ∧ decode [0xAD, 0x00] = .error (.truncated 0xAD) ∧ decode [0xEA] = .ok (.nop, []) := by
  decide

/-! ## Loads, stores, transfers -/

/-- L1 -/
theorem test_lda_zero : shows (run (axyp 0xFF 0 0 0x24) 0xA9 0x00 0x00) apc = some [0x0, 0x26, 0x9] := by decide

/-- L1-2: 4 + 1 cycles -/
theorem test_lda_crossing : shows (run (axyp 0 0x20 0 0x24) 0xBD 0xF0 0x12) State.cycles = some 12 := by decide

/-- L3 -/
theorem test_ldx_zero : shows (run (axyp 0 0xFF 0 0x24) 0xA2 0x00 0x00) xpc = some [0x0, 0x26, 0x9] := by decide

/-- L4 -/
theorem test_ldy : shows (run (axyp 0 0 0 0x24) 0xA0 0x7F 0x00) ypc = some [0x7F, 0x24, 0x9] := by decide

/-- L5 -/
theorem test_sta : shows (run (axyp 0x80 0 0 0x24) 0x85 0x10 0x00) (memApc 0x10) = some [0x80, 0x80, 0x0, 0x24, 0xA] := by decide

/-- L6 -/
theorem test_stx_wraps : shows (run (axyp 0 0x33 1 0x24) 0x96 0xFF 0x00) (memApc 0) = some [0x33, 0x0, 0x33, 0x24, 0xB] := by decide

/-- R455, by hand -/
theorem test_sty : shows (run (axyp 0 0 0x77 0x24) 0x84 0x10 0x00) (memApc 0x10) = some [0x77, 0x0, 0x0, 0x24, 0xA] := by decide

/-- L7 -/
theorem test_tax : shows (run (axyp 0 0x55 0 0x24) 0xAA 0x00 0x00) xpc = some [0x0, 0x26, 0x9] := by decide

/-- R457, by hand -/
theorem test_tay : shows (run (axyp 0x90 0 0x55 0x24) 0xA8 0x00 0x00) ypc = some [0x90, 0xA4, 0x9] := by decide

/-- R458, by hand -/
theorem test_txa : shows (run (axyp 0x55 0x01 0 0xA6) 0x8A 0x00 0x00) apc = some [0x1, 0x24, 0x9] := by decide

/-- L10 -/
theorem test_tya : shows (run (axyp 0 0 0x80 0x24) 0x98 0x00 0x00) apc = some [0x80, 0xA4, 0x9] := by decide

/-- L8 -/
theorem test_tsx : shows (run (at' 0xC000 0 0 0 0x80 0x24) 0xBA 0x00 0x00) xpc = some [0x80, 0xA4, 0x9] := by decide

/-- L9 -/
theorem test_txs : shows (run (axyp 0 0 0 0x26) 0x9A 0x00 0x00) pcSp = some [0xC001, 0x0, 0x26, 0x9] := by decide

/-! ## Addressing -/

/-- A1 -/
theorem test_zpx_wraps : shows (run (mem (axyp 0 0x20 0 0x24) 0x10 0x77) 0xB5 0xF0 0x00) apc = some [0x77, 0x24, 0xB] := by decide

/-- A3: pointer bytes from $00FF and $0000 -/
theorem test_izx_pointer_wraps : shows (run (mem (mem (mem (axyp 0 0 0 0x24) 0xFF 0x34) 0 0x02) 0x234 0x66) 0xA1 0xFF 0x00) apc = some [0x66, 0x24, 0xD] := by decide

/-- A5 -/
theorem test_izy_pointer_wraps : shows (run (mem (mem (mem (axyp 0 0 0x01 0x24) 0xFF 0x34) 0 0x02) 0x235 0x66) 0xB1 0xFF 0x00) apc = some [0x66, 0x24, 0xC] := by decide

/-- A6: $FFFF + 2 reads $0001, 5 cycles -/
theorem test_aby_wraps : shows (run (mem (axyp 0 0 2 0x24) 1 0x12) 0xB9 0xFF 0xFF) apc = some [0x12, 0x24, 0xC] := by decide

/-- A8: a dummy read of $2007 and a write to it, so v advances twice -/
theorem test_sta_dummy_read : shows (run (axyp 0 0 7 0x24) 0x99 0x00 0x20) (fun t => [t.ppu.v.toNat, t.cycles]) = some [0x2, 0xC] := by decide

/-! ## Arithmetic and logic -/

/-- 50 + 50 -/
theorem test_adc_overflow : shows (run (axyp 0x50 0 0 0x24) 0x69 0x50 0x00) apc = some [0xA0, 0xE4, 0x9] := by decide

/-- D0 + 90 -/
theorem test_adc_carry_overflow : shows (run (axyp 0xD0 0 0 0x24) 0x69 0x90 0x00) apc = some [0x60, 0x65, 0x9] := by decide

/-- 50 - B0 -/
theorem test_sbc_overflow : shows (run (axyp 0x50 0 0 0x25) 0xE9 0xB0 0x00) apc = some [0xA0, 0xE4, 0x9] := by decide

/-- 00 - 00 with C = 0 -/
theorem test_sbc_borrow : shows (run (axyp 0 0 0 0x24) 0xE9 0x00 0x00) apc = some [0xFF, 0xA4, 0x9] := by decide

/-- S0 with DECIMAL_MODE. -/
def dec' (a p : Byte) : State := { axyp a 0 0 p with params := { s0.params with decimalMode := true } }

/-- $99 + $01: Z is the binary sum's -/
theorem test_adc_decimal : shows (run (dec' 0x99 0x2C) 0x69 0x01 0x00) apc = some [0x0, 0xAD, 0x9] := by decide

/-- $32 - $02, C = 0 -/
theorem test_sbc_decimal : shows (run (dec' 0x32 0x2C) 0xE9 0x02 0x00) apc = some [0x29, 0x2D, 0x9] := by decide

/-- AR1 -/
theorem test_and_zero : shows (run (axyp 0xF0 0 0 0x24) 0x29 0x0F 0x00) apc = some [0x0, 0x26, 0x9] := by decide

/-- AR2 -/
theorem test_ora : shows (run (axyp 0x80 0 0 0x24) 0x09 0x00 0x00) apc = some [0x80, 0xA4, 0x9] := by decide

/-- AR3 -/
theorem test_eor : shows (run (axyp 0xFF 0 0 0x24) 0x49 0xFF 0x00) apc = some [0x0, 0x26, 0x9] := by decide

/-- AR5 -/
theorem test_bit : shows (run (mem (axyp 0 0 0 0x24) 0x10 0xC0) 0x24 0x10 0x00) apc = some [0x0, 0xE6, 0xA] := by decide

/-- AR6 -/
theorem test_cmp_below : shows (run (axyp 0 0 0 0x25) 0xC9 0x80 0x00) apc = some [0x0, 0xA4, 0x9] := by decide

/-- AR9 -/
theorem test_cpx : shows (run (axyp 0 0 0 0x25) 0xE0 0x01 0x00) xpc = some [0x0, 0xA4, 0x9] := by decide

/-- AR10 -/
theorem test_cpy_equal : shows (run (axyp 0 0 0xFF 0x24) 0xC0 0xFF 0x00) ypc = some [0xFF, 0x27, 0x9] := by decide

/-- AR11 -/
theorem test_inc_wraps : shows (run (mem (axyp 0 0 0 0x25) 0x10 0xFF) 0xE6 0x10 0x00) (memApc 0x10) = some [0x0, 0x0, 0x0, 0x27, 0xC] := by decide

/-- AR12 -/
theorem test_dec_wraps : shows (run (axyp 0 0 0 0x24) 0xC6 0x10 0x00) (memApc 0x10) = some [0xFF, 0x0, 0x0, 0xA4, 0xC] := by decide

/-- AR13 -/
theorem test_inx_wraps : shows (run (axyp 0 0xFF 0 0x24) 0xE8 0x00 0x00) xpc = some [0x0, 0x26, 0x9] := by decide

/-- AR14 -/
theorem test_iny : shows (run (axyp 0 0 0x7F 0x24) 0xC8 0x00 0x00) ypc = some [0x80, 0xA4, 0x9] := by decide

/-- AR15 -/
theorem test_dex_wraps : shows (run (axyp 0 0 0 0x24) 0xCA 0x00 0x00) xpc = some [0xFF, 0xA4, 0x9] := by decide

/-- AR16 -/
theorem test_dey : shows (run (axyp 0 0 1 0x24) 0x88 0x00 0x00) ypc = some [0x0, 0x26, 0x9] := by decide

/-! ## Shifts -/

/-- S1 -/
theorem test_asl : shows (run (axyp 0x80 0 0 0x24) 0x0A 0x00 0x00) apc = some [0x0, 0x27, 0x9] := by decide

/-- S9 -/
theorem test_asl_memory : shows (run (mem (axyp 0 0 0 0x24) 0x200 0x81) 0x1E 0x00 0x02) (memApc 0x200) = some [0x2, 0x0, 0x0, 0x25, 0xE] := by decide

/-- S3 -/
theorem test_lsr : shows (run (axyp 0x01 0 0 0x24) 0x4A 0x00 0x00) apc = some [0x0, 0x27, 0x9] := by decide

/-- S6 -/
theorem test_rol : shows (run (axyp 0 0 0 0x25) 0x2A 0x00 0x00) apc = some [0x1, 0x24, 0x9] := by decide

/-- S8 -/
theorem test_ror : shows (run (axyp 0 0 0 0x25) 0x6A 0x00 0x00) apc = some [0x80, 0xA4, 0x9] := by decide

/-! ## Control flow -/

/-- C2, C7 -/
theorem test_bpl_taken : shows (run (axyp 0 0 0 0x24) 0x10 0x02 0x00) pcSp = some [0xC004, 0xFD, 0x24, 0xA] := by decide

/-- C2, C7 -/
theorem test_bmi_taken : shows (run (axyp 0 0 0 0xA4) 0x30 0x02 0x00) pcSp = some [0xC004, 0xFD, 0xA4, 0xA] := by decide

/-- C2, C7 -/
theorem test_bvc_taken : shows (run (axyp 0 0 0 0x24) 0x50 0x02 0x00) pcSp = some [0xC004, 0xFD, 0x24, 0xA] := by decide

/-- C2, C7 -/
theorem test_bvs_taken : shows (run (axyp 0 0 0 0x64) 0x70 0x02 0x00) pcSp = some [0xC004, 0xFD, 0x64, 0xA] := by decide

/-- C2, C7 -/
theorem test_bcc_taken : shows (run (axyp 0 0 0 0x24) 0x90 0x02 0x00) pcSp = some [0xC004, 0xFD, 0x24, 0xA] := by decide

/-- C2, C7 -/
theorem test_bcs_taken : shows (run (axyp 0 0 0 0x25) 0xB0 0x02 0x00) pcSp = some [0xC004, 0xFD, 0x25, 0xA] := by decide

/-- C2, C7 -/
theorem test_bne_taken : shows (run (axyp 0 0 0 0x24) 0xD0 0x02 0x00) pcSp = some [0xC004, 0xFD, 0x24, 0xA] := by decide

/-- C2, C7 -/
theorem test_beq_taken : shows (run (axyp 0 0 0 0x26) 0xF0 0x02 0x00) pcSp = some [0xC004, 0xFD, 0x26, 0xA] := by decide

/-- C1 -/
theorem test_bne_not_taken : shows (run (axyp 0 0 0 0x26) 0xD0 0x02 0x00) pcSp = some [0xC002, 0xFD, 0x26, 0x9] := by decide

/-- C3 -/
theorem test_bne_crosses : shows (run (at' 0xC0FD 0 0 0 0xFD 0x24) 0xD0 0x01 0x00) pcSp = some [0xC100, 0xFD, 0x24, 0xB] := by decide

/-- C4 -/
theorem test_beq_backward : shows (run (at' 0xC080 0 0 0 0xFD 0x26) 0xF0 0x80 0x00) pcSp = some [0xC002, 0xFD, 0x26, 0xA] := by decide

/-- C8 -/
theorem test_jmp : shows (run (axyp 0 0 0 0x24) 0x4C 0x34 0x12) pcSp = some [0x1234, 0xFD, 0x24, 0xA] := by decide

/-- A7 -/
theorem test_jmp_indirect_page_wrap : shows (run (mem (mem (mem (axyp 0 0 0 0x24) 0x2FF 0x34) 0x200 0x12) 0x300 0x56) 0x6C 0xFF 0x02) pcSp = some [0x1234, 0xFD, 0x24, 0xC] := by decide

/-- C9 -/
theorem test_jsr : shows (run (at' 0x8010 0 0 0 0xFF 0x24) 0x20 0x20 0x80) (fun t => pcSp t ++ [(t.ramByte 0x1FF).toNat, (t.ramByte 0x1FE).toNat]) = some [0x8020, 0xFD, 0x24, 0xD, 0x80, 0x12] := by decide

/-- C10 -/
theorem test_rts : shows (run (mem (mem (axyp 0 0 0 0x24) 0x1FE 0x12) 0x1FF 0x80) 0x60 0x00 0x00) pcSp = some [0x8013, 0xFF, 0x24, 0xD] := by decide

/-- C11 -/
theorem test_rti : shows (run (mem (mem (mem (at' 0xC000 0 0 0 0xF9 0x64) 0x1FA 0xF0) 0x1FB 0x08) 0x1FC 0x80) 0x40 0x00 0x00) pcSp = some [0x8008, 0xFC, 0xE0, 0xD] := by decide

/-- C12, the vector reading $0000 on the blank cartridge -/
theorem test_brk : shows (run (at' 0x8006 0 0 0 0xFC 0xE0) 0x00 0xEA 0x00) (fun t => pcSp t ++ [(t.ramByte 0x1FC).toNat, (t.ramByte 0x1FB).toNat, (t.ramByte 0x1FA).toNat]) = some [0x0, 0xF9, 0xE4, 0xE, 0x80, 0x8, 0xF0] := by decide

/-! ## Stack, flags, no operation -/

/-- T1 -/
theorem test_pha : shows (run (at' 0xC000 0x99 0 0 0xFD 0x24) 0x48 0x00 0x00) (fun t => pcSp t ++ [(t.ramByte 0x1FD).toNat]) = some [0xC001, 0xFC, 0x24, 0xA, 0x99] := by decide

/-- A10 -/
theorem test_pha_wraps : shows (run (at' 0xC000 0x99 0 0 0x00 0x24) 0x48 0x00 0x00) (fun t => pcSp t ++ [(t.ramByte 0x100).toNat]) = some [0xC001, 0xFF, 0x24, 0xA, 0x99] := by decide

/-- T2 -/
theorem test_pla : shows (run (at' 0xC000 0x99 0 0 0xFC 0x24) 0x68 0x00 0x00) apc = some [0x0, 0x26, 0xB] := by decide

/-- T3 -/
theorem test_php : shows (run (axyp 0 0 0 0x24) 0x08 0x00 0x00) (fun t => pcSp t ++ [(t.ramByte 0x1FD).toNat]) = some [0xC001, 0xFC, 0x24, 0xA, 0x34] := by decide

/-- T4 -/
theorem test_plp : shows (run (mem (at' 0xC000 0 0 0 0xFC 0x24) 0x1FD 0xFF) 0x28 0x00 0x00) pcSp = some [0xC001, 0xFD, 0xEF, 0xB] := by decide

/-- T5, T6 -/
theorem test_clc : shows (run (axyp 0 0 0 0x25) 0x18 0x00 0x00) pcSp = some [0xC001, 0xFD, 0x24, 0x9] := by decide

/-- T5, T6 -/
theorem test_sec : shows (run (axyp 0 0 0 0x24) 0x38 0x00 0x00) pcSp = some [0xC001, 0xFD, 0x25, 0x9] := by decide

/-- T5, T6 -/
theorem test_cli : shows (run (axyp 0 0 0 0x24) 0x58 0x00 0x00) pcSp = some [0xC001, 0xFD, 0x20, 0x9] := by decide

/-- T5, T6 -/
theorem test_sei : shows (run (axyp 0 0 0 0x20) 0x78 0x00 0x00) pcSp = some [0xC001, 0xFD, 0x24, 0x9] := by decide

/-- T5, T6 -/
theorem test_cld : shows (run (axyp 0 0 0 0x2C) 0xD8 0x00 0x00) pcSp = some [0xC001, 0xFD, 0x24, 0x9] := by decide

/-- T5, T6 -/
theorem test_sed : shows (run (axyp 0 0 0 0x24) 0xF8 0x00 0x00) pcSp = some [0xC001, 0xFD, 0x2C, 0x9] := by decide

/-- T5, T6 -/
theorem test_clv : shows (run (axyp 0 0 0 0xE4) 0xB8 0x00 0x00) pcSp = some [0xC001, 0xFD, 0xA4, 0x9] := by decide

/-- T7 -/
theorem test_nop : shows (run (axyp 0 0 0 0x24) 0xEA 0x00 0x00) pcSp = some [0xC001, 0xFD, 0x24, 0x9] := by decide

/-! ## Unofficial opcodes -/

/-- R701 -/
theorem test_nop_implied : shows (run (axyp 1 2 3 0x24) 0x1A 0x00 0x00) pcSp = some [0xC001, 0xFD, 0x24, 0x9] := by decide

/-- R702 -/
theorem test_nop_immediate : shows (run (axyp 1 2 3 0x24) 0x80 0x55 0x00) pcSp = some [0xC002, 0xFD, 0x24, 0x9] := by decide

/-- U1 -/
theorem test_nop_memory : shows (run (axyp 1 2 3 0x24) 0x04 0x10 0x00) pcSp = some [0xC002, 0xFD, 0x24, 0xA] := by decide

/-- U2 -/
theorem test_nop_memory_crossing : shows (run (axyp 1 0x20 3 0x24) 0x1C 0xF0 0x12) pcSp = some [0xC003, 0xFD, 0x24, 0xC] := by decide

/-- U3 -/
theorem test_sbc_unofficial : shows (run (axyp 0x10 0 0 0x25) 0xEB 0x01 0x00) apc = some [0xF, 0x25, 0x9] := by decide

/-- U4 -/
theorem test_lax : shows (run (axyp 5 6 0 0x24) 0xA7 0x10 0x00) (memApc 0x10) = some [0x0, 0x0, 0x0, 0x26, 0xA] := by decide

/-- U5 with A & X = $30 -/
theorem test_sax : shows (run (axyp 0xF0 0x3F 0 0x24) 0x87 0x10 0x00) (memApc 0x10) = some [0x30, 0xF0, 0x3F, 0x24, 0xA] := by decide

/-- U6 -/
theorem test_dcp : shows (run (axyp 0xFF 0 0 0x24) 0xC7 0x10 0x00) (memApc 0x10) = some [0xFF, 0xFF, 0x0, 0x27, 0xC] := by decide

/-- U7 -/
theorem test_isb : shows (run (mem (axyp 0 0 0 0x25) 0x10 0xFF) 0xE7 0x10 0x00) (memApc 0x10) = some [0x0, 0x0, 0x0, 0x27, 0xC] := by decide

/-- U8 -/
theorem test_slo : shows (run (mem (axyp 0 0 0 0x24) 0x10 0x80) 0x07 0x10 0x00) (memApc 0x10) = some [0x0, 0x0, 0x0, 0x27, 0xC] := by decide

/-- U9 -/
theorem test_rla : shows (run (mem (axyp 0xFF 0 0 0x25) 0x10 0x80) 0x27 0x10 0x00) (memApc 0x10) = some [0x1, 0x1, 0x0, 0x25, 0xC] := by decide

/-- U10 -/
theorem test_sre : shows (run (mem (axyp 1 0 0 0x24) 0x10 0x03) 0x47 0x10 0x00) (memApc 0x10) = some [0x1, 0x0, 0x0, 0x27, 0xC] := by decide

/-- U11 -/
theorem test_rra : shows (run (mem (axyp 0x10 0 0 0x25) 0x10 0x02) 0x67 0x10 0x00) (memApc 0x10) = some [0x81, 0x91, 0x0, 0xA4, 0xC] := by decide

/-- S0 with EXTRA_UNOFFICIAL and SH_ADDR_ON_CROSS as given. -/
def with' (s : State) (e : ExtraUnofficial) (c : ShAddrOnCross) : State :=
  { s with params := { s.params with extraUnofficial := e, shAddrOnCross := c } }

/-- U12, and_high -/
theorem test_shx_and_high : shows (run (with' (axyp 0 1 0x20 0x24) .refuse .andHigh) 0x9E 0xF0 0x02) (fun t => [(t.ramByte 0x110).toNat, (t.ramByte 0x310).toNat, t.cycles]) = some [0x1, 0x0, 0xC] := by decide

/-- U12, normal -/
theorem test_shx_normal : shows (run (with' (axyp 0 1 0x20 0x24) .refuse .normal) 0x9E 0xF0 0x02) (fun t => [(t.ramByte 0x110).toNat, (t.ramByte 0x310).toNat, t.cycles]) = some [0x0, 0x1, 0xC] := by decide

/-- R721 by hand: $FF & $0F & ($02 + 1), not crossing -/
theorem test_sha : shows (run (axyp 0xFF 0x0F 1 0x24) 0x9F 0x00 0x02) (memApc 0x201) = some [0x3, 0xFF, 0xF, 0x24, 0xC] := by decide

/-- R723 by hand: $07 & 3 -/
theorem test_shy : shows (run (axyp 0 1 7 0x24) 0x9C 0x00 0x02) (memApc 0x201) = some [0x3, 0x0, 0x1, 0x24, 0xC] := by decide

/-- R724 by hand: SP = A & X, stores it & 3 -/
theorem test_tas : shows (run (axyp 0xFE 0x0F 1 0x24) 0x9B 0x00 0x02) (fun t => pcSp t ++ [(t.ramByte 0x201).toNat]) = some [0xC003, 0xE, 0x24, 0xC, 0x2] := by decide

/-- U13 -/
theorem test_jam : shows (run (axyp 0 0 0 0x24) 0x02 0x00 0x00) (fun t => pcSp t ++ [t.halted.toNat]) = some [0xC000, 0xFD, 0x24, 0x7, 0x1] := by decide

/-- U14: refused, no successor. -/
theorem test_open_refused :
    run (with' (axyp 0 0 0 0x24) .refuse .normal) 0x0B 0x80 0 = .refused (.openOpcode "*ANC") := by rfl

/-- U15 -/
theorem test_open_jams : shows (run (with' (axyp 0 0 0 0x24) .jam .normal) 0x0B 0x80 0x00) (fun t => pcSp t ++ [t.halted.toNat]) = some [0xC000, 0xFD, 0x24, 0x7, 0x1] := by decide

/-- R771 by hand -/
theorem test_anc : shows (run (with' (axyp 0xFF 0 0 0x24) .nmos .normal) 0x0B 0x80 0x00) apc = some [0x80, 0xA5, 0x9] := by decide

/-- R772 by hand -/
theorem test_alr : shows (run (with' (axyp 0x01 0 0 0x24) .nmos .normal) 0x4B 0x03 0x00) apc = some [0x0, 0x27, 0x9] := by decide

/-- R773 by hand: $FF >> 1 with C = 0: bit 6 and bit 5 set -/
theorem test_arr : shows (run (with' (axyp 0xFF 0 0 0x24) .nmos .normal) 0x6B 0xFF 0x00) apc = some [0x7F, 0x25, 0x9] := by decide

/-- R774, R775 by hand: with A = $FF the byte drawn does not matter. -/
theorem test_xaa_lxa :
    shows (exec (.xaa 0x3C) (with' (axyp 0xFF 0x0F 0 0x24) .nmos .normal)) (fun t => (t.regs.a, t.draws)) = some (0x0C, 1) ∧
    shows (exec (.lxa 0x80) (with' (axyp 0xFF 0x0F 0 0x24) .nmos .normal)) (fun t => (t.regs.a, t.regs.x)) = some (0x80, 0x80) := by
  have h : ∀ m : Byte, ((0xFF ||| m) &&& 0x0F &&& 0x3C : Byte) = 0x0C := by decide
  have k : ∀ m : Byte, ((0xFF ||| m) &&& 0x80 : Byte) = 0x80 := by decide
  exact ⟨congrArg some (Prod.ext (h _) rfl), congrArg some (Prod.ext (k _) (k _))⟩

/-- R776 by hand -/
theorem test_las : shows (run (with' (mem (axyp 0 0 0 0x24) 0x200 0xF0) .nmos .normal) 0xBB 0x00 0x02) (fun t => apc t ++ [t.regs.x.toNat, t.regs.sp.toNat]) = some [0xF0, 0xA4, 0xB, 0xF0, 0xF0] := by decide

/-- R777 by hand: ($0F & $03) - 1 -/
theorem test_axs : shows (run (with' (axyp 0x0F 3 0 0x24) .nmos .normal) 0xCB 0x01 0x00) xpc = some [0x2, 0x25, 0x9] := by decide

/-! ## Interrupts, DMA, halting -/

/-- I1 -/
theorem test_nmi : shows ({ at' 0x8123 0 0 0 0xFD 0xA1 with nmiPending := true } : State).processorCall
    (fun t => pcSp t ++ [(t.ramByte 0x1FD).toNat, (t.ramByte 0x1FC).toNat, (t.ramByte 0x1FB).toNat]) =
      some [0, 0xFA, 0xA5, 14, 0x81, 0x23, 0xA1] := by decide

/-- I2 -/
theorem test_irq : shows ({ at' 0x8001 0 0 0 0xFD 0x20 with irqMaskSample := false, apu := { s0.apu with dmcIrq := true } } :
    State).processorCall (fun t => pcSp t ++ [(t.ramByte 0x1FD).toNat, (t.ramByte 0x1FC).toNat, (t.ramByte 0x1FB).toNat]) =
      some [0, 0xFA, 0x24, 14, 0x80, 0x01, 0x20] := by decide

/-- S0 at scanline 240, dot `d`, NMI enabled, an IRQ due (I7, I8). -/
def hijack (d : Nat) : State :=
  { at' 0x8001 0 0 0 0xFD 0x20 with
    irqMaskSample := false
    apu := { s0.apu with dmcIrq := true }
    ppu := { s0.ppu with ctrl := 0x80, scanline := 240, dot := d } }

/-- I7: (241, 1) is the 12th of the next 12 dots, and the edge is taken ahead. -/
theorem test_hijack : shows (hijack 331).processorCall (fun t => (t.nmiConsumedAhead, t.nmiPending)) = some (true, false) := by
  decide

/-- I8: (241, 1) is the 13th dot. -/
theorem test_no_hijack : shows (hijack 330).processorCall (fun t => (t.nmiConsumedAhead, t.nmiPending)) = some (false, false) := by
  decide

/-- I4, R121: CLI's mask sample is the I flag before it, NOP's the one after it. -/
theorem test_cli_sample : shows (run (axyp 0 0 0 0x24) 0x58 0 0) State.irqMaskSample = some true ∧
    shows (run (axyp 0 0 0 0x20) 0xEA 0 0) State.irqMaskSample = some false := by decide

/-- D1: a store to $4014 ending at cycles 13 waits two alignment calls. -/
theorem test_dma_trigger : shows (run { axyp 2 0 0 0x24 with cycles := 9 } 0x8D 0x14 0x40)
    (fun t => (t.dma, t.openBus.toNat, t.cycles)) = some (⟨true, 2, 0, 2⟩, 2, 13) := by decide

/-- R841: a pair copies one byte to OAMDATA in two cycles. -/
theorem test_dma_pair :
    let t := ({ mem s0 0x200 0x77 with dma := ⟨true, 2, 0, 0⟩, ppu := { s0.ppu with oamAddr := 0x10 } } : State).dmaMicroStep
    (t.oamByte 0x10, t.ppu.oamAddr, t.dma.offset, t.cycles) = (0x77, 0x11, 1, 9) := by decide

/-- I9: halted, with an NMI pending, nothing is taken. -/
theorem test_halted : shows ({ axyp 0 0 0 0x24 with halted := true, nmiPending := true } : State).processorCall
    (fun t => (pcSp t, t.nmiPending)) = some ([0xC000, 0xFD, 0x24, 7], true) := by decide

/-! ## Bus, mappers, controller -/

/-- M1: the mirrors of work RAM. -/
theorem test_mirrors :
    let t := s0.memWrite 0x0800 0x55
    ((t.memRead 0x0000).1, (t.memRead 0x1000).1, (t.memRead 0x1800).1) = (0x55, 0x55, 0x55) := by decide

/-- M3: an unmapped read gives the operand's high byte. -/
theorem test_open_bus : shows (run (axyp 0 0 0 0x24) 0xAD 0x00 0x50) apc = some [0x50, 0x24, 11] := by decide

/-- M4: save RAM. -/
theorem test_save_ram : ((s0.memWrite 0x6000 0x12).memRead 0x6000).1 = 0x12 := by decide

/-- M5, M7: mapper 0 mirrors its one bank and ignores writes. -/
theorem test_nrom :
    let t := (s0.poke 0x8123 0x9A).memWrite 0x8123 0xFF
    ((t.memRead 0xC123).1, (t.memRead 0x8123).1) = (0x9A, 0x9A) := by decide

/-- L1-6: five serial writes program the control register. -/
theorem test_mmc1_control :
    let w := fun (m : Mmc1) (v : Byte) => m.serialWrite false 0x8000 v
    w (w (w (w (w (w Mmc1.reset 0x80) 0) 1) 1) 1) 0 = { Mmc1.reset with control := 0x0E } := by decide

/-- M11, M13: PRG bank 5 of 4 banks in mode 3. -/
theorem test_mmc1_bank :
    let m : Mmc1 := { Mmc1.reset with prg := 5 }
    (m.prgBank 4 false, m.prgBank 4 true) = (1, 3) ∧ ({ m with control := 0x08 } : Mmc1).prgBank 8 true = 5 := by decide

/-- V-CTL: the latch after the strobe, $09 being A and Start. -/
theorem test_controller :
    let r0 : State := { s0 with pad := ⟨0x09, 0x09, false⟩, openBus := 0x40 }
    let r1 := r0.memRead 0x4016
    let r2 := r1.2.memRead 0x4016
    let r3 := r2.2.memRead 0x4016
    let r4 := r3.2.memRead 0x4016
    [r1.1, r2.1, r3.1, r4.1] = [0x41, 0x40, 0x40, 0x41] := by decide

/-! ## Picture unit -/

/-- V-PPU: the scroll and address writes. -/
theorem test_scroll_writes :
    let s1 := s0.memWrite 0x2005 0x7D
    let s2 := s1.memWrite 0x2005 0x5E
    let s3 := s2.memWrite 0x2006 0x3D
    let s4 := s3.memWrite 0x2006 0xF0
    [s1.ppu.t, s2.ppu.t, s3.ppu.t, s4.ppu.t, s4.ppu.v] = [0x000F, 0x616F, 0x3D6F, 0x3DF0, 0x3DF0] ∧ s4.ppu.x = 5 := by decide

/-- P2 -/
theorem test_status_read :
    let r := ({ s0 with openBus := 0x3F, ppu := { s0.ppu with vblank := true, spriteZero := true, w := true } } : State).memRead 0x2002
    (r.1, r.2.ppu.vblank, r.2.ppu.w) = (0xDF, false, false) := by decide

/-- P3: the PPUDATA buffer. -/
theorem test_data_read :
    let r1 := (({ s0 with ppu := { s0.ppu with v := 0x2108 } } : State).setNt 0x108 0xAA).memRead 0x2007
    let r2 := r1.2.memRead 0x2007
    (r1.1, r2.1, r2.2.ppu.v) = (0x00, 0xAA, 0x210A) := by decide

/-- P6: the palette mirror and its six bits. -/
theorem test_palette : (s0.ppuWrite 0x3F10 0xFF).ppuRead 0x3F00 = 0x3F := by decide

/-- P9, P10, P11, P12, P13, P14 -/
theorem test_scroll_arithmetic :
    [incCoarseX 0x001F, incCoarseX 0x041F, incY 0x73A0, incY 0x73E0, incY 0x0000, copyX 0x7FFF 0x0000] =
      [0x0400, 0x0000, 0x0800, 0x0000, 0x1000, 0x7BE0] := by decide

/-- P16: OAMDATA writes wrap. -/
theorem test_oam :
    let t := (((s0.memWrite 0x2003 0xFE).memWrite 0x2004 0x11).memWrite 0x2004 0x22).memWrite 0x2004 0x33
    [t.oamByte 0xFE, t.oamByte 0xFF, t.oamByte 0x00, t.ppu.oamAddr] = [0x11, 0x22, 0x33, 0x01] := by decide

/-- P17 -/
theorem test_tall_sprite : spriteAddr true false 0x03 9 = 0x1031 := by decide

/-- L1-8 -/
theorem test_attributes :
    [attributeAddr 0x0042, attributeAddr 0x0125, attributeAddr 0x0C3F, attributeAddr 0x03BF] = [0x23C0, 0x23D1, 0x2FC7, 0x23FF] ∧
    [attributeQuadrant 0x0042 0xE4, attributeQuadrant 0x0125 0xE4, attributeQuadrant 0x0C3F 0xE4] = [3, 0, 1] := by decide

/-- L1-5: vblank rises at (241, 1) and falls at (261, 1), the NMI edge with it. -/
theorem test_vblank :
    let s : State := { s0 with ppu := { s0.ppu with scanline := 241, dot := 1, ctrl := 0x80 } }
    (s.ppuTick.ppu.vblank, s.ppuTick.nmiPending) = (true, true) ∧
    ({ s with ppu := { s.ppu with scanline := 261, vblank := true } } : State).ppuTick.ppu.vblank = false := by decide

/-! ## Sound unit -/

/-- S1, S2: the length counter loads only while enabled. -/
theorem test_length :
    ((s0.memWrite 0x4015 0x01).memWrite 0x4003 0x08).apu.p1.length = 254 ∧ (s0.memWrite 0x4003 0x08).apu.p1.length = 0 := by decide

/-- S12: the DMC address and length. -/
theorem test_dmc_registers :
    let d := ((s0.memWrite 0x4012 0x10).memWrite 0x4013 0x02).apu.dmc
    (d.sampleAddr, d.sampleLen) = (0xC400, 33) := by decide

/-- S17: the frame interrupt in $4015, and its acknowledgement. -/
theorem test_status_4015 :
    let r := ({ s0 with openBus := 0x40, apu := { s0.apu with fs := { s0.apu.fs with frameIrq := true } } } : State).memRead 0x4015
    (r.1, r.2.apu.fs.frameIrq) = (0x40, false) := by decide

/-- S18: the frame interrupt at sequencer step 29828. -/
theorem test_frame_irq :
    let a : Apu := { s0.apu with fs := { s0.apu.fs with cycle := 29827 } }
    (a.frameStep.fs.frameIrq, a.frameStep.frameStep.frameStep.fs.cycle) = (true, 0) := by decide

/-- S10: the noise register. -/
theorem test_noise :
    let n : Noise := s0.apu.noise
    (n.timerClock.lfsr, ({ n.timerClock with timer := 0 } : Noise).timerClock.lfsr) = (0x4000, 0x2000) := by decide

/-- S22 and S27, to six places -/
theorem test_mix : |pulseMix 15 15 - 258483 / 1000000| < 1 / 1000000 ∧ |tndMix 15 15 127 - 741516 / 1000000| < 1 / 1000000 ∧
    pulseMix 0 0 + tndMix 0 0 0 = 0 := by norm_num [pulseMix, tndMix, abs_lt]

/-! ## Power-on, trace, the step -/

/-- R1, with the blank cartridge: the values R140 gives. -/
theorem test_reset : [State.reset.regs.a.toNat, State.reset.regs.sp.toNat, State.reset.regs.p.toNat, State.reset.cycles] =
    [0, 0xFD, 0x24, 7] := by decide

/-- R2, with a cartridge whose reset vector is $8000: PC = $C000, the vector's high byte on the open bus, RAM zero (R1105). -/
theorem test_powerOnTrace :
    let t := State.powerOnTrace { Cart.blank with prg := [(0x3FFD, 0x80)] } Params.standard
    [t.regs.pc.toNat, t.openBus.toNat, t.regs.sp.toNat, t.cycles, (t.ramByte 0x7FF).toNat] = [0xC000, 0x80, 0xFD, 7, 0] := by
  decide

/-- V-T1, first line. -/
theorem test_trace :
    ((at' 0xC000 0 0 0 0xFD 0x24).placeInstr 0x4C 0xF5 0xC5).traceLine =
      "C000  4C F5 C5  JMP $C5F5                       A:00 X:00 Y:00 P:24 SP:FD CYC:7".toList := by decide

/-- R862: a step runs the instruction and then its cycles on the devices, three dots each. -/
theorem test_step : shows (step ((axyp 0 0 0 0x24).placeInstr 0xA9 0x80 0))
    (fun t => (apc t, t.lastSync, t.ppu.dot, t.apu.ticks)) = some ([0x80, 0xA4, 9], 9, 6, 2) := by decide

/-- From reset, the placed instruction is the first one a step runs (log 1). -/
theorem test_withFetchWord : shows (State.reset.withFetchWord 16 0x80A9).processorCall
    (fun t => (t.regs.a.toNat, t.regs.pc.toNat)) = some (0x80, 2) := by decide

/-! ## Witnesses: states and operands that meet the hypotheses of the obligations -/

theorem witness_DecodeInvertsEncode : (Instr.lda (.imm 5)).wellFormed = true ∧ (Instr.nopMemory 5 (.abx 0)).wellFormed = true := by
  decide

theorem witness_EncodeInvertsDecode : decode [0xA9, 0x55, 0xFF] = .ok (.lda (.imm 0x55), [0xFF]) := by decide

/-- The last pointer of work RAM, whose second byte comes from the start of its page. -/
theorem witness_PointersWrapInTheirPage : (0x1FFF : Addr).toNat ≤ 0x1FFF := by decide

/-- An index that crosses, one that does not, and the last work-RAM address. -/
theorem witness_OperandReadsPayForCrossing :
    (Operand.abx 0x12F0 ≠ .acc ∧ ∀ v, Operand.abx 0x12F0 ≠ .imm v) ∧
    (indexedMode (.abx 0x12F0) = true ∧ ((axyp 0 0x20 0 0x24).effAddr (.abx 0x12F0)).1.crossed = true) ∧
    ((axyp 0 0x0F 0 0x24).effAddr (.abx 0x12F0)).1.crossed = false ∧ indexedMode (.abs 0x1FFF) = false ∧
    ((axyp 0 0 0 0x24).effAddr (.abs 0x1FFF)).1.ea.toNat ≤ 0x1FFF := by
  refine ⟨⟨by decide, fun v => Operand.noConfusion⟩, ?_⟩
  decide

theorem witness_StoresWriteTheirAddressAlone :
    (Instr.sta (.zp 0)).wellFormed = true ∧ (Instr.stx (.zpy 0)).wellFormed = true ∧ (Instr.sty (.zpx 0)).wellFormed = true ∧
    (Instr.sax (.izx 0)).wellFormed = true ∧ s0.storeLoc 0x1FFF = some (.work 0x7FF) ∧ s0.storeLoc 0x7FFF = some (.save 0x1FFF) ∧
    s0.storeLoc 0x2004 = some (.oam 0) ∧ s0.storeLoc 0x2007 = some (.chr 0) := by decide

/-- A JSR whose high operand byte its own push writes: R620's order goes to $0100, the order of R331 to $4000. -/
def jsrOnStack (f : JsrHighFetch) : State :=
  let s := at' 0x01FD 0 0 0 0xFF 0x24
  { s with params := { s.params with jsrHighFetch := f } }

theorem test_jsr_order : (shows (run (jsrOnStack .afterPushes) 0x20 0x00 0x40) (fun t => t.regs.pc.toNat),
    shows (run (jsrOnStack .beforePushes) 0x20 0x00 0x40) (fun t => t.regs.pc.toNat)) = (some 0x0100, some 0x4000) := by decide

theorem witness_JsrPushesItsLastByteAddress :
    (jsrOnStack .afterPushes).params.jsrHighFetch = .afterPushes ∧ (jsrOnStack .beforePushes).params.jsrHighFetch = .beforePushes := by
  decide

/-- Binary addition, with DECIMAL_MODE off and with D clear. -/
theorem witness_AdcAddsInBinary : (axyp 0 0 0 0x2C).params.decimalMode = false ∧ flag (dec' 0 0x24).regs.p .d = false := by decide

theorem witness_SbcSubtractsInBinary : (axyp 0 0 0 0x2C).params.decimalMode = false ∧ flag (dec' 0 0x24).regs.p .d = false := by
  decide

theorem witness_DecimalModeCountsInDecimal :
    (dec' 0x99 0x2C).params.decimalMode = true ∧ flag (dec' 0x99 0x2C).regs.p .d = true ∧ (0x99 : Byte).toNat / 16 ≤ 9 ∧
    (0x99 : Byte).toNat % 16 ≤ 9 := by decide

/-- The last write of a read-modify-write reaches the place given. -/
abbrev rewritesAt (s : State) (o : Operand) (l : Loc) : Prop := (s.rewrittenLocs o).getLast? = some (some l)

/-- Memory and accumulator operands, one and two writes. -/
theorem witness_ModifiesRewriteTheirOperand :
    (Instr.inc (.zp 0)).wellFormed = true ∧ (Instr.asl .acc).wellFormed = true ∧ (Instr.asl (.abx 0)).wellFormed = true ∧
    rewritesAt { s0 with params := { s0.params with rmwDummyWrite := false } } (.zp 0) (.work 0) ∧
    rewritesAt { s0 with params := { s0.params with rmwDummyWrite := true } } (.abs 0x1FFF) (.work 0x7FF) := by decide

theorem witness_CombinedOpcodesRewriteThenAct : (Instr.dcp (.izy 0)).wellFormed = true ∧
    rewritesAt { s0 with params := { s0.params with rmwDummyWrite := true } } (.zp 0xFF) (.work 0xFF) := by decide

/-- Each branch has a status word that takes it and one that does not. -/
theorem witness_BranchesFollowTheirFlag : ∀ f ∈ [Flag.n, .v, .c, .z], flag 0x24 f = false ∧ flag 0xFF f = true := by decide

theorem witness_ReturnsUndoCalls : statusOk (axyp 0 0 0 0xE0).regs.p = true := by decide

/-- A crossing under each value of SH_ADDR_ON_CROSS, and no crossing. -/
theorem witness_HighAndStores :
    (Instr.sha (.izy 0)).wellFormed = true ∧ (Instr.shx (.aby 0)).wellFormed = true ∧ (Instr.shy (.abx 0)).wellFormed = true ∧
    (Instr.tas (.aby 0)).wellFormed = true ∧ ((axyp 0 1 0x20 0x24).effAddr (.aby 0x02F0)).1.crossed = true ∧
    (with' s0 .refuse .andHigh).params.shAddrOnCross = .andHigh ∧ s0.storeLoc 0x0110 = some (.work 0x110) := by decide

theorem witness_OpenOpcodesAsOnNmos :
    (with' s0 .nmos .normal).params.extraUnofficial = .nmos ∧ (with' s0 .nmos .normal).params.decimalMode = false := by decide

theorem witness_UnstableOpcodesDrawOneByte : (with' s0 .nmos .normal).params.extraUnofficial = .nmos := by decide

/-- Each value of EXTRA_UNOFFICIAL, and ARR in decimal mode. -/
theorem witness_OpenOpcodesAreRefusedOrHalt :
    (with' s0 .refuse .normal).params.extraUnofficial = .refuse ∧ (with' s0 .jam .normal).params.extraUnofficial = .jam ∧
    (with' (dec' 0 0x2C) .nmos .normal).params.extraUnofficial = .nmos ∧
    (with' (dec' 0 0x2C) .nmos .normal).params.decimalMode = true ∧ flag (with' (dec' 0 0x2C) .nmos .normal).regs.p .d = true ∧
    State.resetDefault.params = Params.standard := by
  refine ⟨rfl, rfl, rfl, rfl, by decide, rfl⟩

/-- S0 halted at an address, JAM on the open bus, with the re-fetch as given. -/
def haltedAt (pc : Addr) (r : JamRefetch) : State :=
  let s := at' pc 0 0 0 0xFD 0x24
  { s with halted := true, openBus := 0x02, params := { s.params with jamRefetch := r } }

/-- Halted at $2002, where R850 changes nothing. -/
theorem witness_HaltedIsAFixedPoint :
    let s := haltedAt 0x2002 .fixedPoint
    s.halted = true ∧ s.refused = false ∧ s.lastSync = s.cycles ∧ s.out = [] ∧ s.params.jamRefetch = .fixedPoint := by decide

/-- Halted at the JAM opcode in program ROM and in the expansion area, under R861's bus read. -/
theorem witness_HaltedIsAFixedPoint_busRead :
    let s := (haltedAt 0xC000 .busRead).poke 0xC000 0x02
    let u := haltedAt 0x5FFF .busRead
    (s.params.jamRefetch = .busRead ∧ State.isStored s.regs.pc = true ∧ s.openBus = s.peek s.regs.pc) ∧
    (u.params.jamRefetch = .busRead ∧ (0x4020 ≤ u.regs.pc.toNat ∧ u.regs.pc.toNat ≤ 0x5FFF) ∧ u.openBus = u.peek u.regs.pc) := by
  decide

/-- Halted at $4015 with the frame IRQ up: R850's call leaves it, R861's bus read acknowledges it. -/
theorem test_refetchJam :
    let up := fun s : State => { s with apu := { s.apu with fs := { s.apu.fs with frameIrq := true } } }
    (up (haltedAt 0x4015 .fixedPoint)).refetchJam.apu.fs.frameIrq = true ∧
    (up (haltedAt 0x4015 .busRead)).refetchJam.apu.fs.frameIrq = false := by decide

/-- The three cases of the selected vector: an NMI asserted, one within the window at its last dot, none. -/
theorem witness_InterruptsEnterTheirHandler :
    ({ s0 with nmiPending := true } : State).nmiPending = true ∧
    ((hijack 331).nmiPending = false ∧ (hijack 331).nmiEdgeWithin (hijack 331).params.hijackWindow = true) ∧
    ((hijack 330).nmiPending = false ∧ (hijack 330).nmiEdgeWithin (hijack 330).params.hijackWindow = false) := by decide

theorem witness_BrkEntersTheSelectedHandler :
    ((hijack 331).nmiPending = false ∧ (hijack 331).nmiEdgeWithin (hijack 331).params.hijackWindow = true) ∧
    (hijack 330).nmiEdgeWithin (hijack 330).params.hijackWindow = false := by decide

/-- The last position that is in range, the request low. -/
theorem witness_HijackWindowForeseesTheEdge :
    let s : State := { s0 with ppu := { s0.ppu with dot := 340, scanline := 261 } }
    s.ppu.dot ≤ 340 ∧ s.ppu.scanline ≤ 261 ∧ s.ppu.nmiRequest = false := by decide

/-- S0 with other registers, latches and instruction bytes has the invariant of S0. -/
theorem inv_s0 : s0.Inv where
  ram := by decide
  sram := by decide
  prg := by decide
  chr := by decide
  status := by decide
  count := by decide
  ppu := ⟨by decide, by decide, by decide, by decide, by decide, by decide, by decide⟩
  apu := ⟨by decide, by decide, by decide, by decide, by decide, by decide⟩
  align := by decide
  delays := by decide
  sync := by decide

theorem witness_ConsumedEdgeNeverOutlivesItsCall :
    s0.Inv ∧ s0.params.hijackWindow < 7 ∧ s0.nmiConsumedAhead = false ∧ s0.lastSync = s0.cycles ∧ ∃ t, step s0 = .next t := by
  refine ⟨inv_s0, by decide, by decide, by decide, ?_⟩
  obtain ⟨t, h, -⟩ := next_of_shows (show shows (step s0) (fun _ => ()) = some () by decide)
  exact ⟨t, h⟩

/-- Each branch of the priority order. -/
theorem witness_CallsFollowThePriority :
    s0.refused = false ∧ s0.halted = false ∧ s0.dma.active = false ∧ s0.noPollOnce = false ∧ s0.nmiPending = false ∧
    (s0.apu.fs.frameIrq || s0.apu.dmcIrq) = false ∧
    ((hijack 0).apu.fs.frameIrq || (hijack 0).apu.dmcIrq) = true ∧ (hijack 0).irqMaskSample = false := by decide

/-- CLI, which delays the mask, and NOP, which does not. -/
theorem witness_MaskIsSampledOneInstructionLate :
    (∃ t, ((axyp 0 0 0 0x24).placeInstr 0x58 0 0).executeInstruction = .next t) ∧
    ((axyp 0 0 0 0x24).placeInstr 0x58 0 0).fetchInstr.instr = .cli ∧
    (∃ t, ((axyp 0 0 0 0x24).placeInstr 0xEA 0 0).executeInstruction = .next t) ∧
    ((axyp 0 0 0 0x24).placeInstr 0xEA 0 0).fetchInstr.instr = .nop := by
  refine ⟨?_, by decide, ?_, by decide⟩
  · obtain ⟨t, h, -⟩ := next_of_shows (show shows ((axyp 0 0 0 0x24).placeInstr 0x58 0 0).executeInstruction (fun _ => ()) =
      some () by decide)
    exact ⟨t, h⟩
  · obtain ⟨t, h, -⟩ := next_of_shows (show shows ((axyp 0 0 0 0x24).placeInstr 0xEA 0 0).executeInstruction (fun _ => ()) =
      some () by decide)
    exact ⟨t, h⟩

theorem witness_FewInstructionsWriteIAndD : ∃ t, exec (.adc (.imm 1)) s0 = .next t := ⟨_, rfl⟩

/-- The last page of work RAM. -/
theorem witness_SpriteDmaCopiesAPage : (0x1F : Byte).toNat ≤ 0x1F := by decide

/-- An instruction at the last bytes of work RAM, decoded; and a parked one. -/
theorem witness_StepRunsTheDecodedInstruction :
    let s := (at' 0x1FFD 0 0 0 0xFD 0x24).placeInstr 0xA9 0x55 0
    s.runsInstruction = true ∧ State.isStored s.regs.pc = true ∧ State.isStored (s.regs.pc + 1) = true ∧
    State.isStored (s.regs.pc + 2) = true ∧
    decode [s.peek s.regs.pc, s.peek (s.regs.pc + 1), s.peek (s.regs.pc + 2)] = .ok (.lda (.imm 0x55), [0]) ∧
    parks (rowOf 0x02) s.params = true := by decide

theorem witness_EveryStepGoesOn :
    let s := with' s0 .nmos .normal
    s.refused = false ∧ s.params.extraUnofficial ≠ .refuse ∧ s.params.decimalMode = false := by decide

theorem witness_DevicesFollowTheCycleCounter :
    s0.ppu.dot ≤ 340 ∧ s0.ppu.scanline ≤ 261 ∧ s0.lastSync ≤ s0.cycles ∧ ∃ t, step s0 = .next t := by
  refine ⟨by decide, by decide, by decide, ?_⟩
  obtain ⟨t, h, -⟩ := next_of_shows (show shows (step s0) (fun _ => ()) = some () by decide)
  exact ⟨t, h⟩

theorem witness_StepsNeverChangeTheCartridge : (∃ t, step s0 = .next t) ∧
    ({ s0 with cart := { s0.cart with chrBanks := 1 } } : State).cart.chrBanks ≠ 0 := by
  refine ⟨?_, by decide⟩
  obtain ⟨t, h, -⟩ := next_of_shows (show shows (step s0) (fun _ => ()) = some () by decide)
  exact ⟨t, h⟩

/-- The two ends of the mirrored range, reaching two bytes. -/
theorem witness_WorkRamIsMirrored : (0x1FFF : Addr).toNat ≤ 0x1FFF ∧ (0x0000 : Addr).toNat ≤ 0x1FFF := by decide

theorem witness_OpenBusHoldsTheLastByte :
    0x4018 ≤ (0x4018 : Addr).toNat ∧ (0x5FFF : Addr).toNat ≤ 0x5FFF := by decide

/-- A PPU register without a read effect, and the neighbours of the two I/O registers. -/
theorem witness_OnlyFourRegistersHaveReadEffects :
    ((0x3FFC : Addr).toNat % 8 ≠ 2 ∧ (0x3FFC : Addr).toNat % 8 ≠ 7) ∧
    (0x4014 : Addr).toNat ≠ 0x4015 ∧ (0x4017 : Addr).toNat ≠ 0x4016 ∧
    s0.pad.strobe = false ∧ (s0.memWrite 0x4016 1).pad.strobe = true := by decide

/-- S0 with the background on, at a position. -/
def dotAt (sl d : Nat) : State := { s0 with ppu := { s0.ppu with mask := 0x08, v := 0x001F, t := 0x7BE0, scanline := sl, dot := d } }

/-- A coarse dot, the last of a line, the two copies, a dot of no change, and a line that does not render. -/
theorem witness_ScrollCountersWrap :
    ((dotAt 239 8).ppuTick.ppu.v = 0x0400 ∧ (8 - 1) % 8 = 7) ∧ (dotAt 239 256).ppuTick.ppu.v = 0x1400 ∧
    (dotAt 239 257).ppuTick.ppu.v = 0 ∧ (dotAt 261 280).ppuTick.ppu.v = 0x7BFF ∧ (dotAt 239 9).ppuTick.ppu.v = 0x001F ∧
    (dotAt 240 8).ppuTick.ppu.v = 0x001F := by decide

theorem witness_ProgramSpaceWritesGoToTheMapper :
    0x8000 ≤ (0x8000 : Addr).toNat ∧ s0.cart.mapper = .nrom ∧
    ({ s0 with cart := { s0.cart with mapper := .mmc1 } } : State).cart.mapper = .mmc1 ∧ (0x80 : Byte).getLsbD 7 = true := by decide

theorem witness_FiveSerialWritesLatchARegister :
    Mmc1.reset.count = 0 ∧ ∀ v ∈ ([0x00, 0x01, 0x7F, 0x01, 0x00] : List Byte), v.getLsbD 7 = false := by decide

/-- Each mapper and mode, at the ends of both halves. -/
theorem witness_ProgramBanksFollowTheMapper :
    (0x8000 ≤ 0x8000 ∧ 0xFFFF ≤ 0xFFFF) ∧ 0 < s0.cart.prgBanks ∧ s0.cart.mapper = .nrom ∧ s0.cart.prgBanks = 1 ∧
    ({ s0 with cart := { s0.cart with prgBanks := 2 } } : State).cart.prgBanks = 2 ∧
    ({ Mmc1.reset with control := 0x04 } : Mmc1).prgMode ≤ 1 ∧ ({ Mmc1.reset with control := 0x08 } : Mmc1).prgMode = 2 ∧
    Mmc1.reset.prgMode = 3 := by decide

/-- The last position of a frame. -/
theorem witness_FramesAre89342Dots :
    let p : Ppu := { s0.ppu with dot := 340, scanline := 261 }
    p.dot ≤ 340 ∧ p.scanline ≤ 261 ∧ p.position = 89341 := by decide

/-- The three kinds of dot, with an edge taken ahead and without. -/
theorem witness_VblankBeginsAndEnds :
    let s : State := { s0 with nmiConsumedAhead := true, ppu := { s0.ppu with scanline := 241, dot := 1, ctrl := 0x80 } }
    (s.ppu.scanline = 241 ∧ s.ppu.dot = 1) ∧ s.ppu.ctrl.getLsbD 7 = true ∧ s.ppu.nmiRequest = false ∧ s.nmiConsumedAhead = true ∧
    s0.nmiConsumedAhead = false ∧ ¬ (s0.ppu.scanline = 241 ∧ s0.ppu.dot = 1) ∧ ¬ (s0.ppu.scanline = 261 ∧ s0.ppu.dot = 1) := by
  decide

/-- The toggle clear, and an address in each of the three ranges, at its ends. -/
theorem witness_PpuDataWritesWherePpuAddrPoints :
    s0.ppu.w = false ∧ 0x20 % 64 * 256 + 0 = 0x2000 ∧ 0x3E % 64 * 256 + 0xFF < 0x3F00 ∧ 0x3F00 ≤ 0x3F % 64 * 256 + 0xE0 ∧
    (0x3F % 64 * 256 + 0xE0) % 32 = 0 ∧ 0x1F % 64 * 256 + 0xFF < 0x2000 := by decide

/-- The two registers at the ends of their mirrors, `v` on both sides of the palette's start. -/
theorem witness_PpuReadsHaveTheirEffects :
    (0x2002 : Addr).toNat % 8 = 2 ∧ (0x3FFF : Addr).toNat % 8 = 7 ∧
    ({ s0.ppu with v := 0x3EFF } : Ppu).v.toNat % 0x4000 < 0x3F00 ∧ 0x3F00 ≤ ({ s0.ppu with v := 0x3F00 } : Ppu).v.toNat % 0x4000 := by
  decide

/-- S0 at the dot of pixel (8, 1) with both layers on, background pixels opaque or transparent, and sprite 0 opaque at (8, 1),
behind or not. -/
def layers (bg : BitVec 16) (att : Byte) : State :=
  let s := { s0 with ppu := { s0.ppu with mask := 0x1E, bgLo := bg, scanline := 1, dot := 9 } }
  (((((s.setOam 0 0).setOam 1 1).setOam 2 att).setOam 3 8).setChr 0x10 0xFF)

/-- Each case of the priority, and a pixel that hits. -/
theorem witness_PixelsFollowThePriority :
    let bg := fun s : State => ((s.renderBackground s.ppu.scanline s.ppu.dot s.ppu.rendering).backgroundPixel (s.ppu.dot - 1)).1
    let sp := fun s : State => s.spritePixel (s.ppu.dot - 1) s.ppu.scanline
    let off := fun v : BitVec 16 => (layers v 0).setOam 3 9
    ((layers 0 0).ppu.scanline ≤ 239 ∧ 1 ≤ (layers 0 0).ppu.dot ∧ (layers 0 0).ppu.dot ≤ 256) ∧
    (bg (off 0) = 0 ∧ sp (off 0) = none) ∧ (bg (off 0xFFFF) ≠ 0 ∧ sp (off 0xFFFF) = none) ∧
    (bg (layers 0 0) = 0 ∧ sp (layers 0 0) = some ⟨1, 4, false, true⟩) ∧
    (bg (layers 0xFFFF 0x20) ≠ 0 ∧ sp (layers 0xFFFF 0x20) = some ⟨1, 4, true, true⟩) ∧
    (layers 0xFFFF 0).ppuTick.ppu.spriteZero = true := by decide

theorem witness_FrameInterruptAfter29828Steps :
    s0.apu.fs.mode = false ∧ s0.apu.fs.irqInhibit = false ∧ s0.apu.fs.cycle = 0 ∧ s0.apu.fs.frameIrq = false := by decide

theorem witness_StepKeepsTheInvariant : s0.Inv ∧ ∃ t, step s0 = .next t := by
  refine ⟨inv_s0, ?_⟩
  obtain ⟨t, h, -⟩ := next_of_shows (show shows (step s0) (fun _ => ()) = some () by decide)
  exact ⟨t, h⟩

/-- A mapper-0 image with one program bank of zeros loads. -/
theorem witness_PowerOnGivesTheStatedState :
    Params.standard.frameDelayEven ≤ 4 ∧ Params.standard.frameDelayOdd ≤ 4 ∧
    ∃ s, powerOnImage ([0x4E, 0x45, 0x53, 0x1A, 1, 0, 0, 0, 0, 0, 0, 0, 0, 0, 0, 0] ++ List.replicate 16384 0) Params.standard =
      .next s := by
  refine ⟨by decide, by decide, ?_⟩
  have h : ∀ l : List Byte, l.length = 16384 →
      imageFault ([0x4E, 0x45, 0x53, 0x1A, 1, 0, 0, 0, 0, 0, 0, 0, 0, 0, 0, 0] ++ l) = none := by
    intro l hl
    simp [imageFault, signature, imagePrgBanks, imageChrBanks, mapperId, headerByte, hl]
  have k := h (List.replicate 16384 0) List.length_replicate
  generalize List.replicate 16384 (0 : Byte) = l at k
  exact ⟨_, by unfold powerOnImage; rw [k]⟩

/-- Images that load errors stop, by name. -/
theorem witness_LoadErrorsGiveNoMachine :
    imageFault [] = some .badSignature ∧ imageFault (signature ++ [0, 0]) = some .zeroProgramBanks ∧
    imageFault (signature ++ [1, 0, 0x20]) = some .unsupportedMapper ∧ imageFault (signature ++ [1, 0, 0x04]) = some .trainerBit ∧
    imageFault (signature ++ [1, 0, 0x08]) = some .fourScreenBit ∧ imageFault (signature ++ [1, 0, 0x00]) = some .shortImage := by
  decide

end Sys2Proof.Tests
end

section
/-! What no step changes, carried through every operation of the machine: whether the run was refused, the parameters, and
the cartridge but for its pattern RAM. From it, what a step can answer (R22, R780, R801). -/

namespace Sys2Proof.Machine
namespace State

/-- What no step changes: the refusal latch, the parameters, and the cartridge but for its pattern RAM (R126, R15, R226,
R232). -/
def fixedPart (s : State) : Bool × Params × Cart :=
  (s.refused, s.params, { s.cart with chr := if s.cart.chrBanks = 0 then [] else s.cart.chr })

theorem refused_of_fixedPart {s t : State} (h : t.fixedPart = s.fixedPart) : t.refused = s.refused := congrArg (·.1) h

theorem params_of_fixedPart {s t : State} (h : t.fixedPart = s.fixedPart) : t.params = s.params := congrArg (·.2.1) h

/-! ## The setters -/

@[simp] theorem setA_fixedPart (s : State) (v : Byte) : (s.setA v).fixedPart = s.fixedPart := rfl
@[simp] theorem setX_fixedPart (s : State) (v : Byte) : (s.setX v).fixedPart = s.fixedPart := rfl
@[simp] theorem setY_fixedPart (s : State) (v : Byte) : (s.setY v).fixedPart = s.fixedPart := rfl
@[simp] theorem setSp_fixedPart (s : State) (v : Byte) : (s.setSp v).fixedPart = s.fixedPart := rfl
@[simp] theorem setP_fixedPart (s : State) (v : Byte) : (s.setP v).fixedPart = s.fixedPart := rfl
@[simp] theorem setPc_fixedPart (s : State) (v : Addr) : (s.setPc v).fixedPart = s.fixedPart := rfl
@[simp] theorem setNZOf_fixedPart (s : State) (v : Byte) : (s.setNZOf v).fixedPart = s.fixedPart := rfl
@[simp] theorem setAP_fixedPart (s : State) (r : Byte × Byte) : (s.setAP r).fixedPart = s.fixedPart := rfl
@[simp] theorem putFlag_fixedPart (s : State) (f : Flag) (v : Bool) : (s.putFlag f v).fixedPart = s.fixedPart := rfl
@[simp] theorem addCycles_fixedPart (s : State) (n : Nat) : (s.addCycles n).fixedPart = s.fixedPart := rfl
@[simp] theorem setOpenBus_fixedPart (s : State) (v : Byte) : (s.setOpenBus v).fixedPart = s.fixedPart := rfl
@[simp] theorem emit_fixedPart (s : State) (e : HostEvent) : (s.emit e).fixedPart = s.fixedPart := rfl
@[simp] theorem setPpu_fixedPart (s : State) (p : Ppu) : (s.setPpu p).fixedPart = s.fixedPart := rfl
@[simp] theorem setApu_fixedPart (s : State) (a : Apu) : (s.setApu a).fixedPart = s.fixedPart := rfl
@[simp] theorem setRam_fixedPart (s : State) (i : Nat) (v : Byte) : (s.setRam i v).fixedPart = s.fixedPart := rfl
@[simp] theorem setSram_fixedPart (s : State) (i : Nat) (v : Byte) : (s.setSram i v).fixedPart = s.fixedPart := rfl
@[simp] theorem halt_fixedPart (s : State) : s.halt.fixedPart = s.fixedPart := rfl
@[simp] theorem drawMagic_fixedPart (s : State) : s.drawMagic.2.fixedPart = s.fixedPart := rfl
theorem setNoPollOnce_fixedPart (s : State) (b : Bool) : ({ s with noPollOnce := b } : State).fixedPart = s.fixedPart := rfl
theorem setDma_fixedPart (s : State) (d : Dma) : ({ s with dma := d } : State).fixedPart = s.fixedPart := rfl
theorem setOut_fixedPart (s : State) (l : List HostEvent) : ({ s with out := l } : State).fixedPart = s.fixedPart := rfl
@[simp] theorem sampleMask_fixedPart (s : State) : s.sampleMask.fixedPart = s.fixedPart := rfl

/-! ## The bus -/

@[simp] theorem memRead_fixedPart (s : State) (a : Addr) : (s.memRead a).2.fixedPart = s.fixedPart := by
  simp [fixedPart]

/-- A pattern write changes pattern RAM alone (R232). -/
@[simp] theorem setChr_fixedPart (s : State) (i : Nat) (v : Byte) : (s.setChr i v).fixedPart = s.fixedPart := by
  unfold setChr
  split
  · simp [fixedPart, *]
  · rfl

@[simp] theorem setNmiRequest_fixedPart (s : State) (r : Bool) : (s.setNmiRequest r).fixedPart = s.fixedPart := by
  unfold setNmiRequest onNmiEdge
  dsimp only
  split
  · split <;> rfl
  · rfl

@[simp] theorem ppuWrite_fixedPart (s : State) (a : Nat) (b : Byte) : (s.ppuWrite a b).fixedPart = s.fixedPart := by
  unfold ppuWrite
  dsimp only
  split
  · exact setChr_fixedPart s _ b
  · split <;> rfl

@[simp] theorem ppuRegWrite_fixedPart (s : State) (r : Nat) (b : Byte) : (s.ppuRegWrite r b).fixedPart = s.fixedPart := by
  unfold ppuRegWrite
  split
  case h_1 => unfold writeCtrl; dsimp only; split <;> simp
  case h_5 => unfold writeScroll; dsimp only; split <;> rfl
  case h_6 => unfold writeAddr; dsimp only; split <;> rfl
  case h_7 => exact ppuWrite_fixedPart s _ b
  all_goals rfl

@[simp] theorem ioWrite_fixedPart (s : State) (n : Nat) (v : Byte) : (s.ioWrite n v).fixedPart = s.fixedPart := by
  unfold ioWrite
  split
  · rfl
  split
  · unfold writeStrobe; dsimp only; split <;> rfl
  · rfl

@[simp] theorem prgWrite_fixedPart (s : State) (a : Nat) (v : Byte) : (s.prgWrite a v).fixedPart = s.fixedPart := by
  unfold prgWrite
  split <;> rfl

@[simp] theorem busWrite_fixedPart (s : State) (a : Addr) (v : Byte) : (s.busWrite a v).fixedPart = s.fixedPart := by
  unfold busWrite
  repeat' split
  all_goals simp

@[simp] theorem memWrite_fixedPart (s : State) (a : Addr) (v : Byte) : (s.memWrite a v).fixedPart = s.fixedPart :=
  busWrite_fixedPart (s.setOpenBus v) a v

@[simp] theorem memWriteSecond_fixedPart (s : State) (a : Addr) (v : Byte) :
    (s.memWriteSecond a v).fixedPart = s.fixedPart := by
  unfold memWriteSecond
  split <;> simp

@[simp] theorem writeBack_fixedPart (s : State) (a : Addr) (old new : Byte) :
    (s.writeBack a old new).fixedPart = s.fixedPart := by
  rw [writeBack_eq]
  split <;> simp

@[simp] theorem read16_fixedPart (s : State) (a : Addr) : (s.read16 a).2.fixedPart = s.fixedPart := by
  simp [read16]

@[simp] theorem fetchByte_fixedPart (s : State) : s.fetchByte.2.fixedPart = s.fixedPart := by
  simp [fetchByte]

@[simp] theorem readIndirect_fixedPart (s : State) (a : Addr) : (s.readIndirect a).2.fixedPart = s.fixedPart := by
  simp [readIndirect]

/-! ## Operands -/

@[simp] theorem effAddr_fixedPart (o : Operand) (s : State) : (s.effAddr o).2.fixedPart = s.fixedPart := by
  obtain ⟨v, h⟩ := effAddr_changes o s
  rw [h, setOpenBus_fixedPart]

@[simp] theorem crossPenalty_fixedPart (o : Operand) (e : EffAddr) (s : State) :
    (s.crossPenalty o e).fixedPart = s.fixedPart := by
  unfold crossPenalty
  split <;> simp

@[simp] theorem dummyRead_fixedPart (o : Operand) (e : EffAddr) (s : State) :
    (s.dummyRead o e).fixedPart = s.fixedPart := by
  unfold dummyRead
  split <;> simp

@[simp] theorem readOperand_fixedPart (o : Operand) (s : State) : (s.readOperand o).2.fixedPart = s.fixedPart := by
  cases h : namesMemory o
  · cases o <;> first | rfl | simp [namesMemory] at h
  · rw [readOperand_eq h]; simp

@[simp] theorem storeOperand_fixedPart (o : Operand) (v : Byte) (s : State) :
    (s.storeOperand o v).fixedPart = s.fixedPart := by
  cases h : namesMemory o
  · cases o <;> first | rfl | simp [namesMemory] at h
  · rw [storeOperand_eq h]; simp

@[simp] theorem modifyOperand_fixedPart (o : Operand) (f : Byte → Byte → Byte × Byte) (s : State) :
    (s.modifyOperand o f).2.fixedPart = s.fixedPart := by
  cases h : namesMemory o
  · cases o <;> first | rfl | simp [namesMemory] at h
  · rw [modifyOperand_eq h]; simp [oldByte]

@[simp] theorem modifyThen_fixedPart (f : Byte → Byte → Byte × Byte) (g : Byte → Byte → Byte) (o : Operand) (s : State) :
    (s.modifyThen f g o).fixedPart = s.fixedPart := by
  simp [modifyThen]

@[simp] theorem storeHighAnd_fixedPart (o : Operand) (r : Byte) (s : State) :
    (s.storeHighAnd o r).fixedPart = s.fixedPart := by
  simp [storeHighAnd]

@[simp] theorem logic_fixedPart (f : Byte → Byte → Byte) (o : Operand) (s : State) :
    (s.logic f o).fixedPart = s.fixedPart := by
  simp [logic]

@[simp] theorem compareWith_fixedPart (r : Byte) (o : Operand) (s : State) :
    (s.compareWith r o).fixedPart = s.fixedPart := by
  simp [compareWith]

/-! ## Control flow, the stack and exceptions -/

@[simp] theorem branch_fixedPart (c : Bool) (off : Byte) (s : State) : (s.branch c off).fixedPart = s.fixedPart := by
  unfold branch
  split <;> rfl

@[simp] theorem push_fixedPart (s : State) (v : Byte) : (s.push v).fixedPart = s.fixedPart := by simp [push]

@[simp] theorem pull_fixedPart (s : State) : s.pull.2.fixedPart = s.fixedPart := by simp [pull]

@[simp] theorem pushWord_fixedPart (s : State) (w : Addr) : (s.pushWord w).fixedPart = s.fixedPart := by simp [pushWord]

@[simp] theorem pullWord_fixedPart (s : State) : s.pullWord.2.fixedPart = s.fixedPart := by simp [pullWord]

@[simp] theorem saveFrame_fixedPart (k : ExcKind) (s : State) : (s.saveFrame k).fixedPart = s.fixedPart := by
  simp [saveFrame]

@[simp] theorem selectVector_fixedPart (s : State) : s.selectVector.2.fixedPart = s.fixedPart := by
  unfold selectVector
  split
  · rfl
  · split <;> rfl

@[simp] theorem vectorOf_fixedPart (k : ExcKind) (s : State) : (vectorOf k s).2.fixedPart = s.fixedPart := by
  cases k
  case nmi => rfl
  all_goals exact selectVector_fixedPart s

@[simp] theorem takeException_fixedPart (k : ExcKind) (s : State) : (s.takeException k).fixedPart = s.fixedPart := by
  unfold takeException
  dsimp only
  rw [setNoPollOnce_fixedPart, addCycles_fixedPart, setPc_fixedPart, read16_fixedPart, vectorOf_fixedPart,
    saveFrame_fixedPart]
  cases k <;> rfl

@[simp] theorem returnFromException_fixedPart (s : State) : s.returnFromException.fixedPart = s.fixedPart := by
  simp [returnFromException]

/-! ## The processor call around an instruction -/

@[simp] theorem fetchInstr_fixedPart (s : State) : s.fetchInstr.state.fixedPart = s.fixedPart := by
  unfold fetchInstr
  dsimp only
  split
  · simp
  · split <;> simp

@[simp] theorem finishInstr_fixedPart (s : State) (i : Instr) (t : State) : (s.finishInstr i t).fixedPart = t.fixedPart := by
  unfold finishInstr
  dsimp only
  split <;> rfl

@[simp] theorem dmaMicroStep_fixedPart (s : State) : s.dmaMicroStep.fixedPart = s.fixedPart := by
  unfold dmaMicroStep
  dsimp only
  split
  · rfl
  · split <;> simp only [setDma_fixedPart, addCycles_fixedPart, memWrite_fixedPart, memRead_fixedPart]

@[simp] theorem refetchJam_fixedPart (s : State) : s.refetchJam.fixedPart = s.fixedPart := by
  rcases refetchJam_cases s with h | h <;> rw [h]
  exact memRead_fixedPart s _

/-! ## The devices -/

@[simp] theorem preRender_fixedPart (s : State) (sl d : Nat) : (s.preRender sl d).fixedPart = s.fixedPart := by
  unfold preRender
  split <;> simp

@[simp] theorem renderBackground_fixedPart (s : State) (sl d : Nat) (r : Bool) :
    (s.renderBackground sl d r).fixedPart = s.fixedPart := by
  obtain ⟨_, _, _, _, _, _, _, _, _, h⟩ := s.renderBackground_changes sl d r
  rw [h, setPpu_fixedPart]

@[simp] theorem vblankStart_fixedPart (s : State) (sl d : Nat) : (s.vblankStart sl d).fixedPart = s.fixedPart := by
  unfold vblankStart
  dsimp only
  split
  · split <;> simp
  · rfl

@[simp] theorem renderPixel_fixedPart (s : State) (sl d : Nat) : (s.renderPixel sl d).fixedPart = s.fixedPart := by
  unfold renderPixel
  split <;> rfl

@[simp] theorem advanceDot_fixedPart (s : State) (sl d : Nat) : (s.advanceDot sl d).fixedPart = s.fixedPart := by
  unfold advanceDot
  split
  · split <;> rfl
  · rfl

@[simp] theorem ppuTick_fixedPart (s : State) : s.ppuTick.fixedPart = s.fixedPart := by simp [ppuTick]

@[simp] theorem dmcReader_fixedPart (s : State) : s.dmcReader.fixedPart = s.fixedPart := by
  unfold dmcReader
  split <;> simp

@[simp] theorem mixerStep_fixedPart (s : State) : s.mixerStep.fixedPart = s.fixedPart := rfl

@[simp] theorem apuTick_fixedPart (s : State) : s.apuTick.fixedPart = s.fixedPart := by simp [apuTick]

@[simp] theorem cycleTick_fixedPart (s : State) : s.cycleTick.fixedPart = s.fixedPart := by simp [cycleTick]

@[simp] theorem replay_fixedPart (n : Nat) (s : State) : (replay n s).fixedPart = s.fixedPart := by
  induction n generalizing s with
  | zero => rfl
  | succ n ih => rw [replay, ih, cycleTick_fixedPart]

@[simp] theorem catchUp_fixedPart (s : State) : s.catchUp.fixedPart = s.fixedPart := replay_fixedPart _ s

/-! ## What a call can answer -/

/-- What leaves the spec without a successor: a run refused before, an OPEN opcode without a meaning, ARR in decimal mode
(R126, R770, R780). -/
def mayRefuse (s : State) : Prop :=
  s.refused = true ∨ s.params.extraUnofficial = .refuse ∨ s.params.decimalMode = true

/-- What a processor call from a state can answer: a next state with the same fixed part, or, when the state allows it, a
refusal; never a fault. -/
def answers (s : State) : Result → Prop
  | .next t => t.fixedPart = s.fixedPart
  | .fault _ => False
  | .refused _ => s.mayRefuse

/-- What a state can answer depends on its fixed part alone. -/
theorem answers_congr {s t : State} (h : t.fixedPart = s.fixedPart) {r : Result} (hr : t.answers r) : s.answers r := by
  cases r with
  | next u => exact Eq.trans hr h
  | fault f => exact hr
  | refused f => simpa only [answers, mayRefuse, refused_of_fixedPart h, params_of_fixedPart h] using hr

/-- An OPEN opcode is refused only where it has no meaning (R770). -/
theorem openOpcode_answers (m : String) {s : State} {effect : Result} (h : s.answers effect) :
    s.answers (openOpcode m s effect) := by
  unfold openOpcode
  split
  case h_1 he => exact .inr (.inl he)
  case h_2 => exact halt_fixedPart s
  case h_3 => exact h

/-- ARR's meaning is missing in decimal mode alone (R773, R780). -/
theorem execArr_answers (v : Byte) (s : State) : s.answers (execArr v s) := by
  refine openOpcode_answers _ ?_
  split
  case isTrue hd => exact .inr (.inr (Bool.and_eq_true_iff.mp hd).1)
  case isFalse => exact setAP_fixedPart s _

/-- JSR goes on in either order of its fetches (R620). -/
theorem execJsr_answers (w : Addr) (s : State) : s.answers (execJsr w s) := by
  unfold execJsr
  split <;> simp [answers]

/-- Every instruction has a meaning but the OPEN opcodes, and none faults (R22, R801). -/
theorem exec_answers (i : Instr) (s : State) : s.answers (exec i s) := by
  cases i
  case jsr w => exact execJsr_answers w s
  case arr v => exact execArr_answers v s
  case anc | alr | xaa | lxa | las | axs => exact openOpcode_answers _ (by simp [answers])
  all_goals
    change State.fixedPart _ = _
    simp

theorem executeInstruction_answers (s : State) : s.answers s.executeInstruction := by
  have h : s.answers (exec s.fetchInstr.instr s.fetchInstr.state) := answers_congr (fetchInstr_fixedPart s) (exec_answers _ _)
  unfold executeInstruction
  generalize exec s.fetchInstr.instr s.fetchInstr.state = r at h
  cases r with
  | next t => exact (finishInstr_fixedPart s _ t).trans h
  | fault f => exact h
  | refused r => exact h

/-- Each of the seven things a processor call can do (R815, R861). -/
theorem processorCall_answers (s : State) : s.answers s.processorCall := by
  unfold processorCall
  split
  case isTrue h => exact .inl h
  split; · exact refetchJam_fixedPart s
  split; · exact (sampleMask_fixedPart _).trans (dmaMicroStep_fixedPart s)
  split; · exact answers_congr (setNoPollOnce_fixedPart s false) (executeInstruction_answers _)
  split; · exact (sampleMask_fixedPart _).trans (takeException_fixedPart .nmi s)
  split; · exact (sampleMask_fixedPart _).trans (takeException_fixedPart .irq s)
  exact executeInstruction_answers s

theorem step_answers (s : State) : s.answers (step s) := by
  have h : s.answers ({ s with out := [] } : State).processorCall :=
    answers_congr (setOut_fixedPart s []) (processorCall_answers _)
  unfold step
  generalize ({ s with out := [] } : State).processorCall = r at h
  cases r with
  | next t => exact (catchUp_fixedPart t).trans h
  | fault f => exact h
  | refused r => exact h

end State

/-- Settles O40: what a step can answer, `step_answers`, by the three outcomes. -/
theorem everyStepGoesOn : Obligations.EveryStepGoesOn := by
  intro s
  have h := s.step_answers
  generalize step s = r at h
  cases r with
  | next t => exact ⟨nofun, fun hr _ _ => ⟨t, rfl, (State.refused_of_fixedPart h).trans hr⟩⟩
  | fault f => exact h.elim
  | refused f => exact ⟨nofun, fun hr hx hd => by simp [State.answers, State.mayRefuse, hr, hx, hd] at h⟩

end Sys2Proof.Machine
end

section
/-! The invariant (R115, R116, R124, R240, R901, R953, R1036, R1044, R1046) and the status word along a run. Every
instruction but seven makes an `OrdinaryChange`: it keeps the invariant and writes no flag but N, V, Z and C. That case
split, made once, gives both that few instructions write I and D and that every step keeps the invariant. -/

namespace Sys2Proof.Machine

/-! ## Status words that keep every flag but N, V, Z and C -/

/-- The flags that results and comparisons write (R500 to R519). -/
abbrev arithFlags : List Flag := [.n, .v, .z, .c]

theorem keepsFlags.refl (p : Byte) (l : List Flag) : keepsFlags p p l := fun _ _ => rfl

theorem keepsFlags.trans {p q r : Byte} {l : List Flag} (h : keepsFlags p q l) (k : keepsFlags q r l) :
    keepsFlags p r l := fun f hf => (k f hf).trans (h f hf)

/-- A listed flag may be written. -/
theorem keepsFlags.setFlag {p q : Byte} {l : List Flag} (h : keepsFlags p q l) {f : Flag} (hf : f ∈ l) (v : Bool) :
    keepsFlags p (setFlag q f v) l := by
  intro g hg
  have hne : g ≠ f := fun e => hg (e ▸ hf)
  rw [flag_setFlag, if_neg hne]
  exact h g hg

/-- N and Z may be written when they are listed. -/
theorem keepsFlags.setNZ {p q : Byte} {l : List Flag} (h : keepsFlags p q l) (hn : .n ∈ l) (hz : .z ∈ l) (v : Byte) :
    keepsFlags p (setNZ q v) l := (h.setFlag hn _).setFlag hz _

theorem keepsFlags_compareP (r m p : Byte) : keepsFlags p (compareP r m p) arithFlags :=
  ((keepsFlags.refl p _).setFlag (by decide) _).setNZ (by decide) (by decide) _

theorem keepsFlags_bitP (a m p : Byte) : keepsFlags p (bitP a m p) arithFlags :=
  (((keepsFlags.refl p _).setFlag (by decide) _).setFlag (by decide) _).setFlag (by decide) _

/-- A modify function of R412's `RMW` that writes no flag but N, V, Z and C. -/
def writesOnlyArithFlags (f : Byte → Byte → Byte × Byte) : Prop := ∀ v p, keepsFlags p (f v p).2 arithFlags

theorem writesOnlyArithFlags_increment : writesOnlyArithFlags increment := fun _ p => keepsFlags.refl p _
theorem writesOnlyArithFlags_decrement : writesOnlyArithFlags decrement := fun _ p => keepsFlags.refl p _
theorem writesOnlyArithFlags_shiftLeft : writesOnlyArithFlags shiftLeft :=
  fun _ p => (keepsFlags.refl p _).setFlag (by decide) _
theorem writesOnlyArithFlags_shiftRight : writesOnlyArithFlags shiftRight :=
  fun _ p => (keepsFlags.refl p _).setFlag (by decide) _
theorem writesOnlyArithFlags_rotateLeft : writesOnlyArithFlags rotateLeft :=
  fun _ p => (keepsFlags.refl p _).setFlag (by decide) _
theorem writesOnlyArithFlags_rotateRight : writesOnlyArithFlags rotateRight :=
  fun _ p => (keepsFlags.refl p _).setFlag (by decide) _

theorem writesOnlyArithFlags.withNZ {f : Byte → Byte → Byte × Byte} (h : writesOnlyArithFlags f) : writesOnlyArithFlags (withNZ f) :=
  fun v p => (h v p).setNZ (by decide) (by decide) _

/-! ## Ordinary changes -/

/-- A change that keeps the invariant and every flag but N, V, Z and C. -/
structure OrdinaryChange (s t : State) : Prop where
  inv : s.Inv → t.Inv
  flags : keepsFlags s.regs.p t.regs.p arithFlags

namespace OrdinaryChange

variable {s t : State}

theorem refl (s : State) : OrdinaryChange s s := ⟨id, keepsFlags.refl _ _⟩

/-- An operation that keeps the invariant and the status word. -/
theorem of_same_p {u : State} (h : OrdinaryChange s t) (hi : t.Inv → u.Inv) (hp : u.regs.p = t.regs.p) :
    OrdinaryChange s u := ⟨hi ∘ h.inv, hp ▸ h.flags⟩

theorem setA (h : OrdinaryChange s t) (v : Byte) : OrdinaryChange s (t.setA v) := h.of_same_p (·.setA v) rfl
theorem setX (h : OrdinaryChange s t) (v : Byte) : OrdinaryChange s (t.setX v) := h.of_same_p (·.setX v) rfl
theorem setY (h : OrdinaryChange s t) (v : Byte) : OrdinaryChange s (t.setY v) := h.of_same_p (·.setY v) rfl
theorem setSp (h : OrdinaryChange s t) (v : Byte) : OrdinaryChange s (t.setSp v) := h.of_same_p (·.setSp v) rfl
theorem setPc (h : OrdinaryChange s t) (v : Addr) : OrdinaryChange s (t.setPc v) := h.of_same_p (·.setPc v) rfl

theorem addCycles (h : OrdinaryChange s t) (n : Nat) : OrdinaryChange s (t.addCycles n) :=
  h.of_same_p (·.addCycles n) rfl

theorem halt (h : OrdinaryChange s t) : OrdinaryChange s t.halt :=
  h.of_same_p (·.latches _ _ _ _ true _ _ _) rfl

theorem drawMagic (h : OrdinaryChange s t) : OrdinaryChange s t.drawMagic.2 :=
  h.of_same_p (·.latches _ _ _ _ _ _ (t.draws + 1) _) rfl

/-- A status word that keeps the flags outside `arithFlags` keeps B and U, so it stays normalised. -/
theorem setP (h : OrdinaryChange s t) {p : Byte} (hp : keepsFlags t.regs.p p arithFlags) : OrdinaryChange s (t.setP p) where
  inv hs := (h.inv hs).setP (statusOk_of_keeps (h.inv hs).status hp (by decide) (by decide))
  flags := h.flags.trans hp

theorem setNZOf (h : OrdinaryChange s t) (v : Byte) : OrdinaryChange s (t.setNZOf v) :=
  h.setP ((keepsFlags.refl _ _).setNZ (by decide) (by decide) v)

theorem putFlag (h : OrdinaryChange s t) {f : Flag} (hf : f ∈ arithFlags) (v : Bool) : OrdinaryChange s (t.putFlag f v) :=
  h.setP ((keepsFlags.refl _ _).setFlag hf v)

theorem setAP (h : OrdinaryChange s t) {r : Byte × Byte} (hr : keepsFlags t.regs.p r.2 arithFlags) :
    OrdinaryChange s (t.setAP r) := (h.setA r.1).setP hr

theorem memRead (h : OrdinaryChange s t) (a : Addr) : OrdinaryChange s (t.memRead a).2 :=
  h.of_same_p (·.memRead a) (by simp)

theorem readIndirect (h : OrdinaryChange s t) (a : Addr) : OrdinaryChange s (t.readIndirect a).2 :=
  (h.memRead a).memRead _

theorem fetchByte (h : OrdinaryChange s t) : OrdinaryChange s t.fetchByte.2 := (h.memRead _).setPc _

theorem readOperand (h : OrdinaryChange s t) (o : Operand) : OrdinaryChange s (t.readOperand o).2 :=
  h.of_same_p (·.readOperand o) (by simp)

theorem storeOperand (h : OrdinaryChange s t) (o : Operand) (v : Byte) : OrdinaryChange s (t.storeOperand o v) :=
  h.of_same_p (·.storeOperand o v) (by simp)

theorem storeHighAnd (h : OrdinaryChange s t) (o : Operand) (r : Byte) : OrdinaryChange s (t.storeHighAnd o r) :=
  h.of_same_p (·.storeHighAnd o r) (by simp [State.storeHighAnd])

theorem push (h : OrdinaryChange s t) (v : Byte) : OrdinaryChange s (t.push v) :=
  h.of_same_p (·.push v) (by simp [State.push_eq])

theorem pull (h : OrdinaryChange s t) : OrdinaryChange s t.pull.2 := (h.setSp _).memRead _

theorem pushWord (h : OrdinaryChange s t) (w : Addr) : OrdinaryChange s (t.pushWord w) := (h.push _).push _

theorem pullWord (h : OrdinaryChange s t) : OrdinaryChange s t.pullWord.2 := h.pull.pull

theorem branch (h : OrdinaryChange s t) (c : Bool) (off : Byte) : OrdinaryChange s (t.branch c off) := by
  unfold State.branch
  split
  · exact (h.addCycles _).setPc _
  · exact h

theorem modifyOperand (h : OrdinaryChange s t) (o : Operand) {f : Byte → Byte → Byte × Byte} (hf : writesOnlyArithFlags f) :
    OrdinaryChange s (t.modifyOperand o f).2 where
  inv hs := (h.inv hs).modifyOperand o fun v p hp => statusOk_of_keeps hp (hf v p) (by decide) (by decide)
  flags := by
    refine h.flags.trans ?_
    cases hm : State.namesMemory o
    case true =>
      rw [State.modifyOperand_regs hm]
      exact hf _ _
    case false =>
      cases o
      case acc => exact hf _ _
      case imm => exact keepsFlags.refl _ _
      all_goals cases hm

theorem modifyThen (h : OrdinaryChange s t) {f : Byte → Byte → Byte × Byte} (hf : writesOnlyArithFlags f)
    (g : Byte → Byte → Byte) (o : Operand) : OrdinaryChange s (t.modifyThen f g o) :=
  ((h.modifyOperand o hf).setA _).setNZOf _

theorem logic (h : OrdinaryChange s t) (f : Byte → Byte → Byte) (o : Operand) : OrdinaryChange s (t.logic f o) :=
  ((h.readOperand o).setA _).setNZOf _

theorem compareWith (h : OrdinaryChange s t) (r : Byte) (o : Operand) : OrdinaryChange s (t.compareWith r o) :=
  (h.readOperand o).setP (keepsFlags_compareP _ _ _)

end OrdinaryChange

/-! ## Instructions -/

/-- The next state of an outcome, if it has one, has a property. -/
def nextHas (P : State → Prop) : Result → Prop
  | .next t => P t
  | .fault _ | .refused _ => True

theorem nextHas.mono {P Q : State → Prop} {r : Result} (h : nextHas P r) (k : ∀ t, P t → Q t) : nextHas Q r := by
  cases r with
  | next t => exact k t h
  | fault _ => trivial
  | refused _ => trivial

theorem nextHas.of_next {P : State → Prop} {r : Result} {t : State} (h : nextHas P r) (e : r = .next t) : P t := by
  subst e
  exact h

/-- The seven instructions that write I or D (R113, R114). -/
def writesControlFlags : Instr → Bool
  | .sei | .cli | .sed | .cld | .plp | .rti | .brk _ => true
  | _ => false

/-- An OPEN opcode halts, or is refused, or does what its meaning does (R770). -/
theorem openOpcode_ordinary (m : String) {s : State} {effect : Result} (h : nextHas (OrdinaryChange s) effect) :
    nextHas (OrdinaryChange s) (openOpcode m s effect) := by
  unfold openOpcode
  split
  case h_1 => trivial
  case h_2 => exact (OrdinaryChange.refl s).halt
  case h_3 => exact h

theorem execArr_ordinary (v : Byte) (s : State) : nextHas (OrdinaryChange s) (execArr v s) := by
  refine openOpcode_ordinary _ ?_
  split
  case isTrue => trivial
  case isFalse =>
    exact (OrdinaryChange.refl s).setAP
      ((((keepsFlags.refl _ _).setNZ (by decide) (by decide) _).setFlag (by decide) _).setFlag (by decide) _)

theorem execJsr_ordinary (w : Addr) (s : State) : nextHas (OrdinaryChange s) (execJsr w s) := by
  unfold execJsr
  split
  · exact ((OrdinaryChange.refl s).pushWord _).fetchByte.setPc _
  · exact ((OrdinaryChange.refl s).fetchByte.pushWord _).setPc _

/-- Every instruction but the seven that write I or D makes an ordinary change. -/
theorem exec_ordinary {i : Instr} (hi : writesControlFlags i = false) (s : State) :
    nextHas (OrdinaryChange s) (exec i s) := by
  have h := OrdinaryChange.refl s
  cases i
  case sei | cli | sed | cld | plp | rti | brk => cases hi
  -- loads, stores, transfers
  case lda o => exact ((h.readOperand o).setA _).setNZOf _
  case ldx o => exact ((h.readOperand o).setX _).setNZOf _
  case ldy o => exact ((h.readOperand o).setY _).setNZOf _
  case lax o => exact (((h.readOperand o).setA _).setX _).setNZOf _
  case sta o | stx o | sty o | sax o => exact h.storeOperand o _
  case sha o | shx o | shy o => exact h.storeHighAnd o _
  case tas o => exact (h.setSp _).storeHighAnd o _
  case txa | tya => exact (h.setA _).setNZOf _
  case tax | tsx | inx | dex => exact (h.setX _).setNZOf _
  case tay | iny | dey => exact (h.setY _).setNZOf _
  case txs => exact h.setSp _
  -- arithmetic, logic, comparison
  case adc o => exact (h.readOperand o).setAP (keepsFlags_adcResult _ _ _ _)
  case sbc o => exact (h.readOperand o).setAP (keepsFlags_sbcResult _ _ _ _)
  case sbcUnofficial => exact h.setAP (keepsFlags_sbcResult _ _ _ _)
  case and o | ora o | eor o => exact h.logic _ o
  case bit o => exact (h.readOperand o).setP (keepsFlags_bitP _ _ _)
  case cmp o | cpx o | cpy o => exact h.compareWith _ o
  -- read-modify-write
  case inc o => exact h.modifyOperand o writesOnlyArithFlags_increment.withNZ
  case dec o => exact h.modifyOperand o writesOnlyArithFlags_decrement.withNZ
  case asl o => exact h.modifyOperand o writesOnlyArithFlags_shiftLeft.withNZ
  case lsr o => exact h.modifyOperand o writesOnlyArithFlags_shiftRight.withNZ
  case rol o => exact h.modifyOperand o writesOnlyArithFlags_rotateLeft.withNZ
  case ror o => exact h.modifyOperand o writesOnlyArithFlags_rotateRight.withNZ
  case slo o => exact h.modifyThen writesOnlyArithFlags_shiftLeft _ o
  case rla o => exact h.modifyThen writesOnlyArithFlags_rotateLeft _ o
  case sre o => exact h.modifyThen writesOnlyArithFlags_shiftRight _ o
  case dcp o => exact (h.modifyOperand o writesOnlyArithFlags_decrement).setP (keepsFlags_compareP _ _ _)
  case isb o => exact (h.modifyOperand o writesOnlyArithFlags_increment).setAP (keepsFlags_sbcResult _ _ _ _)
  case rra o => exact (h.modifyOperand o writesOnlyArithFlags_rotateRight).setAP (keepsFlags_adcResult _ _ _ _)
  -- control flow
  case bpl | bmi | bvc | bvs | bcc | bcs | bne | beq => exact h.branch _ _
  case jmpAbs w => exact h.setPc w
  case jmpInd w => exact (h.readIndirect w).setPc _
  case jsr w => exact execJsr_ordinary w s
  case rts => exact h.pullWord.setPc _
  -- stack, flags, no operation, halt
  case pha | php => exact h.push _
  case pla => exact (h.pull.setA _).setNZOf _
  case clc | sec | clv => exact h.putFlag (by decide) _
  case nop | nopImplied | nopImmediate => exact h
  case nopMemory o => exact h.readOperand o
  case jam => exact h.halt
  -- OPEN opcodes
  case anc =>
    exact openOpcode_ordinary _ (h.setAP (((keepsFlags.refl _ _).setNZ (by decide) (by decide) _).setFlag (by decide) _))
  case alr => exact openOpcode_ordinary _ (h.setAP (writesOnlyArithFlags_shiftRight.withNZ _ _))
  case arr v => exact execArr_ordinary v s
  case xaa => exact openOpcode_ordinary _ ((h.drawMagic.setA _).setNZOf _)
  case lxa => exact openOpcode_ordinary _ (((h.drawMagic.setA _).setX _).setNZOf _)
  case las o => exact openOpcode_ordinary _ (((((h.readOperand o).setA _).setX _).setSp _).setNZOf _)
  case axs => exact openOpcode_ordinary _ ((h.setX _).setP (keepsFlags_compareP _ _ _))

/-- Every instruction keeps the invariant: P stays normalised where PLP and RTI pull it (R119) and where I or D is written. -/
theorem exec_inv (i : Instr) {s : State} (h : s.Inv) : nextHas State.Inv (exec i s) := by
  cases i
  case sei | cli | sed | cld => exact h.setP (statusOk_setFlag _ _ h.status (by decide) (by decide))
  case plp => exact h.pull.setP (statusOk_pulledP _)
  case rti => exact h.returnFromException
  case brk => exact (h.setPc _).takeException .brk
  all_goals exact (exec_ordinary rfl s).mono fun _ ht => ht.inv h

@[simp] theorem read16_regs (s : State) (a : Addr) : (s.read16 a).2.regs = s.regs := by simp [State.read16]

@[simp] theorem selectVector_regs (s : State) : s.selectVector.2.regs = s.regs := by
  unfold State.selectVector
  split
  · rfl
  · split <;> rfl

/-- Taking an exception sets I and writes no other flag (R820, R640). -/
@[simp] theorem takeException_p (k : ExcKind) (s : State) : (s.takeException k).regs.p = setFlag s.regs.p .i true := by
  cases k <;> simp [State.takeException, State.vectorOf, State.saveFrame_eq]

/-- Only SEI, CLI, PLP, RTI and BRK write I (R113). -/
theorem exec_keepsI {i : Instr} (hi : i ∉ [.sei, .cli, .plp, .rti]) (hb : ∀ v, i ≠ .brk v) (s : State) :
    nextHas (fun t => flag t.regs.p .i = flag s.regs.p .i) (exec i s) := by
  cases i
  case sei | cli | plp | rti => simp at hi
  case brk v => exact absurd rfl (hb v)
  case sed | cld => exact flag_setFlag _ .d .i _
  all_goals exact (exec_ordinary rfl s).mono fun _ ht => ht.flags .i (by decide)

/-- Only SED, CLD, PLP and RTI write D (R114). -/
theorem exec_keepsD {i : Instr} (hi : i ∉ [.sed, .cld, .plp, .rti]) (s : State) :
    nextHas (fun t => flag t.regs.p .d = flag s.regs.p .d) (exec i s) := by
  cases i
  case sed | cld | plp | rti => simp at hi
  case sei | cli => exact flag_setFlag _ .i .d _
  case brk => exact (congrArg (flag · .d) (takeException_p .brk _)).trans (flag_setFlag _ .i .d _)
  all_goals exact (exec_ordinary rfl s).mono fun _ ht => ht.flags .d (by decide)

/-! ## The processor call -/

namespace State

theorem Inv.fetchInstr {s : State} (h : s.Inv) : s.fetchInstr.state.Inv := by
  have h1 := h.memRead s.regs.pc
  unfold State.fetchInstr
  dsimp only
  split
  · exact h1
  · have h2 := (h1.setPc (s.regs.pc + 1)).addCycles (rowOf (s.memRead s.regs.pc).1).base
    split
    · exact h2
    · exact h2.fetchByte
    · exact h2.fetchByte.fetchByte

@[simp] theorem finishInstr_regs (s : State) (i : Instr) (t : State) : (s.finishInstr i t).regs = t.regs := by
  unfold finishInstr
  dsimp only
  split <;> rfl

/-- The mask the next poll uses (R121, R861). -/
@[simp] theorem finishInstr_irqMaskSample (s : State) (i : Instr) (t : State) :
    (s.finishInstr i t).irqMaskSample = if delaysMask i then flag s.regs.p .i else flag t.regs.p .i := by
  unfold finishInstr
  dsimp only
  split <;> rfl

theorem Inv.finishInstr {s t : State} (i : Instr) (h : t.Inv) : (s.finishInstr i t).Inv := by
  have h1 := h.latches (if delaysMask i then flag s.regs.p .i else flag t.regs.p .i) t.nmiPending t.nmiConsumedAhead
    t.noPollOnce t.halted t.refused t.draws t.out
  unfold State.finishInstr
  dsimp only
  split
  · exact h1
  · exact h1.emit _

theorem Inv.executeInstruction {s t : State} (h : s.Inv) (e : s.executeInstruction = .next t) : t.Inv := by
  obtain ⟨u, hu, rfl⟩ := executeInstruction_next e
  exact ((exec_inv _ h.fetchInstr).of_next hu).finishInstr _

theorem Inv.sampleMask {s : State} (h : s.Inv) : s.sampleMask.Inv := h.latches (flag s.regs.p .i) _ _ _ _ _ _ _

theorem Inv.setDma {s : State} (h : s.Inv) {d : Dma} (hd : d.align ≤ 2) : ({ s with dma := d } : State).Inv :=
  h.congr rfl rfl rfl h.status rfl h.ppu h.apu hd rfl h.sync

/-- A DMA micro-step counts the alignment down or copies a byte (R841). -/
theorem Inv.dmaMicroStep {s : State} (h : s.Inv) : s.dmaMicroStep.Inv := by
  unfold State.dmaMicroStep
  split
  · exact (h.setDma (Nat.le_trans (Nat.sub_le _ 1) h.align)).addCycles 1
  · have h1 := ((h.memRead (join s.dma.page s.dma.offset)).memWrite 0x2004
      (s.memRead (join s.dma.page s.dma.offset)).1).addCycles 2
    dsimp only
    split
    · exact h1.setDma h1.align
    · exact h1.setDma h1.align

theorem Inv.processorCall {s t : State} (h : s.Inv) (e : s.processorCall = .next t) : t.Inv := by
  obtain ⟨-, hc⟩ := processorCall_next e
  obtain ⟨-, rfl⟩ | ⟨-, -, rfl⟩ | ⟨-, -, -, hx⟩ | ⟨-, -, -, -, rfl⟩ | ⟨-, -, -, -, -, rfl⟩ | ⟨-, -, -, -, -, hx⟩ := hc
  · exact Machine.Inv.refetchJam h
  · exact h.dmaMicroStep.sampleMask
  · exact (h.latches _ _ _ false _ _ _ _).executeInstruction hx
  · exact (h.takeException .nmi).sampleMask
  · exact (h.takeException .irq).sampleMask
  · exact h.executeInstruction hx

/-- The catch-up brings the devices level with the processor and not ahead of it (R127, R860). -/
theorem Inv.catchUp {s : State} (h : s.Inv) : s.catchUp.Inv :=
  have hr := Inv.replay (s.cycles - s.lastSync) h
  hr.congr rfl rfl rfl hr.status rfl hr.ppu hr.apu hr.align rfl (catchUp_lastSync s).le

end State

/-! ## The step and the status word -/

/-- Settles O58: the processor call keeps the invariant, and so does the catch-up after it. -/
theorem stepKeepsTheInvariant : Obligations.StepKeepsTheInvariant := by
  intro s t h e
  obtain ⟨u, hu, rfl⟩ := step_next e
  exact (State.Inv.processorCall (h.latches _ _ _ _ _ _ _ []) hu).catchUp

/-- CLI, SEI and PLP are the instructions whose effect on the mask is late (R121). -/
theorem delaysMask_iff (i : Instr) : delaysMask i = true ↔ i ∈ [.cli, .sei, .plp] := by
  cases i <;> simp [delaysMask]

/-- Settles O36: the mask is sampled where an instruction is finished. -/
theorem maskIsSampledOneInstructionLate : Obligations.MaskIsSampledOneInstructionLate := by
  intro s t e
  obtain ⟨u, -, rfl⟩ := executeInstruction_next e
  rw [State.finishInstr_irqMaskSample, State.finishInstr_regs, ← delaysMask_iff]
  exact ⟨fun h => if_pos h, fun h => if_neg h⟩

/-- Settles O37: the instructions that keep I, `exec_keepsI`, and those that keep D, `exec_keepsD`. -/
theorem fewInstructionsWriteIAndD : Obligations.FewInstructionsWriteIAndD := fun _ s _ e =>
  ⟨fun hi hb => (exec_keepsI hi hb s).of_next e, fun hi => (exec_keepsD hi s).of_next e⟩

end Sys2Proof.Machine
end

section
/-! The state that power-on gives (R140, R1100 to R1105): it has the invariant, and it depends on the image through the
cartridge alone. -/

namespace Sys2Proof.Machine

theorem ppuReset_inv : Ppu.reset.Inv := by constructor <;> decide

theorem ppuReset_position : Ppu.reset.position = 0 := by decide

theorem apuReset_inv : Apu.reset.Inv := by constructor <;> decide

/-- The state R1100 gives has the invariant when its cartridge is in canonical form. -/
theorem powered_inv {c : Cart} {p : Params} (b : Byte) (pc : Addr) (hprg : c.prg.romWf)
    (hchr : if c.chrBanks = 0 then c.chr.wf ∧ c.chr.below 0x2000 else c.chr.romWf)
    (hp : p.frameDelayEven ≤ 4 ∧ p.frameDelayOdd ≤ 4) : (State.powered c p b pc).Inv where
  ram := ⟨rfl, rfl⟩
  sram := ⟨rfl, rfl⟩
  prg := hprg
  chr := hchr
  status := show statusOk 0x24 = true by decide
  count := Nat.zero_lt_succ 4
  ppu := ppuReset_inv
  apu := apuReset_inv
  align := Nat.zero_le 2
  delays := hp
  sync := Nat.zero_le 7

/-- A loaded cartridge's pattern memory is in canonical form: pattern RAM lists nothing, pattern ROM no $00. -/
theorem cartOf_chr (img : List Byte) :
    if (cartOf img).chrBanks = 0 then (cartOf img).chr.wf ∧ (cartOf img).chr.below 0x2000 else (cartOf img).chr.romWf := by
  split
  case isTrue h =>
    have hchr : (cartOf img).chr = [] := by
      have h0 : imageChrBanks img = 0 := h
      simp [cartOf, h0, Memory.romOf]
    rw [hchr]
    exact ⟨rfl, rfl⟩
  case isFalse => exact Memory.romWf_romOf _

/-- An image that loads gives the machine powered on with its cartridge (R1100). -/
theorem powerOnImage_next {img : List Byte} {p : Params} {s : State} (h : powerOnImage img p = .next s) :
    s = State.powerOn (cartOf img) p := by
  unfold powerOnImage at h
  split at h
  · cases h
  · exact (Host.Outcome.next.inj h).symm

/-- What program space reads at power-on is a function of the cartridge alone: the mapper is at its power-on values. -/
theorem powered_prgRead (c : Cart) : ∃ byte : Nat → Byte, ∀ p b pc a, (State.powered c p b pc).prgRead a = byte a :=
  ⟨(State.powered c Params.standard 0 0).prgRead, fun _ _ _ _ => rfl⟩

/-- Settles O57: the blank cartridge lists no byte. -/
theorem resetHasTheInvariant : Obligations.ResetHasTheInvariant :=
  powered_inv (c := Cart.blank) 0 0 rfl ⟨rfl, rfl⟩ (by decide)

/-- Settles O59: the machine is `State.powered` with the image's cartridge, by `powerOn_eq`, and the trace harness's by
`powerOnTrace_eq`. -/
theorem powerOnGivesTheStatedState : Obligations.PowerOnGivesTheStatedState := by
  intro img p s heven hodd h
  obtain ⟨byte, hbyte⟩ := powered_prgRead (cartOf img)
  have hs : s = State.powered (cartOf img) p (byte 0xFFFD) (join (byte 0xFFFD) (byte 0xFFFC)) := by
    rw [powerOnImage_next h, powerOn_eq, hbyte, hbyte]
  have ht : State.powerOnTrace (cartOf img) p = State.powered (cartOf img) p.traceHarness (byte 0xFFFD) 0xC000 := by
    rw [powerOnTrace_eq, hbyte]
  rw [ht, hs, hbyte, hbyte]
  exact ⟨powered_inv _ _ (Memory.romWf_romOf _) (cartOf_chr img) ⟨heven, hodd⟩,
    rfl, rfl, rfl, rfl, rfl, rfl, rfl, rfl, rfl, rfl, rfl, rfl, rfl, rfl, rfl, rfl, rfl, rfl, rfl, rfl,
    ppuReset_position, rfl, rfl, rfl, fun _ => rfl⟩

end Sys2Proof.Machine
end

section
/-! The CPU bus and the cartridge (R210 to R248): what each part of the address space does on a read and on a write, the
controller port, mapper 1's serial port and the program banks; the cartridge along a step; what a load checks (R262). -/

namespace Sys2Proof.Machine

/-! ## The cartridge along a step -/

/-- States with one fixed part have one cartridge, but for the contents of pattern RAM (R226, R232). -/
theorem State.cart_of_fixedPart {s t : State} (h : t.fixedPart = s.fixedPart) :
    { t.cart with chr := s.cart.chr } = s.cart ∧ (s.cart.chrBanks ≠ 0 → t.cart.chr = s.cart.chr) := by
  refine ⟨congrArg (fun f => { f.2.2 with chr := s.cart.chr }) h, fun hrom => ?_⟩
  have hbanks : t.cart.chrBanks = s.cart.chrBanks := congrArg (·.2.2.chrBanks) h
  have hchr := congrArg (·.2.2.chr) h
  simpa only [State.fixedPart, hbanks, if_neg hrom] using hchr

/-- Settles O42: a step keeps the fixed part, `step_answers`, which holds the parameters and the cartridge. -/
theorem stepsNeverChangeTheCartridge : Obligations.StepsNeverChangeTheCartridge := by
  intro s t h
  have hfixed : t.fixedPart = s.fixedPart := by
    have ha := s.step_answers
    rwa [h] at ha
  obtain ⟨hcart, hchr⟩ := State.cart_of_fixedPart hfixed
  exact ⟨hcart, hchr, State.params_of_fixedPart hfixed⟩

/-! ## Work RAM, the expansion area, program space -/

namespace State

@[simp] theorem setOpenBus_ramByte (s : State) (v : Byte) (i : Nat) : (s.setOpenBus v).ramByte i = s.ramByte i := rfl

/-- A read of the expansion area gives the open bus back and leaves everything as it is (R214). -/
theorem memRead_expansion (s : State) {a : Addr} (h : 0x4018 ≤ a.toNat) (h' : a.toNat ≤ 0x5FFF) :
    s.memRead a = (s.openBus, s) := by
  have hbus : s.busRead a = (s.openBus, s) := by
    unfold busRead
    rw [if_neg (by omega), if_neg (by omega), if_neg (by omega), if_pos h']
  unfold memRead
  rw [hbus]
  rfl

/-- A write to the expansion area sets the open-bus latch alone (R224). -/
theorem memWrite_expansion (s : State) {a : Addr} (v : Byte) (h : 0x4018 ≤ a.toNat) (h' : a.toNat ≤ 0x5FFF) :
    s.memWrite a v = s.setOpenBus v := by
  unfold memWrite busWrite
  rw [if_neg (by omega), if_neg (by omega), if_neg (by omega), if_pos h']

/-- A write to program space goes to the mapper (R226). -/
theorem memWrite_program (s : State) {a : Addr} (v : Byte) (h : 0x8000 ≤ a.toNat) :
    s.memWrite a v = (s.setOpenBus v).prgWrite a.toNat v := by
  unfold memWrite busWrite
  rw [if_neg (by omega), if_neg (by omega), if_neg (by omega), if_neg (by omega), if_neg (by omega)]

/-- Mapper 0 ignores a write (R231). -/
theorem prgWrite_nrom {s : State} (h : s.cart.mapper = .nrom) (a : Nat) (v : Byte) : s.prgWrite a v = s := by
  unfold prgWrite
  rw [h]

/-- Mapper 1 takes a write at its serial port (R241). -/
theorem prgWrite_mmc1 {s : State} (h : s.cart.mapper = .mmc1) (a : Nat) (v : Byte) :
    s.prgWrite a v = { s with mmc1 := s.mmc1.serialWrite s.params.mmc1ResetSetsMode3 a v } := by
  unfold prgWrite
  rw [h]

/-- No mapper changes the cartridge (R226). -/
@[simp] theorem prgWrite_cart (s : State) (a : Nat) (v : Byte) : (s.prgWrite a v).cart = s.cart := by
  unfold prgWrite
  split <;> rfl

end State

/-- Settles O43: a read is `memRead_work`, a write `memWrite_work`, each through the low eleven bits. -/
theorem workRamIsMirrored : Obligations.WorkRamIsMirrored := by
  intro s a b v ha hb
  refine ⟨s.memRead_work ha, ?_⟩
  rw [State.memWrite_work s v ha, State.memRead_work _ hb, State.memRead_work s hb, State.setRam_ramByte,
    State.setOpenBus_ramByte]
  exact if_congr eq_comm rfl rfl

/-- Settles O44: the latch after a read and after a write, and the expansion area. -/
theorem openBusHoldsTheLastByte : Obligations.OpenBusHoldsTheLastByte := fun s a v =>
  ⟨s.memRead_openBus a, s.memWrite_openBus a v, fun h h' => ⟨s.memRead_expansion h h', s.memWrite_expansion v h h'⟩⟩

/-! ## Read effects and the controller port -/

namespace State

/-- Of the eight PPU registers, only PPUSTATUS and PPUDATA have a read effect (R273). -/
theorem ppuRegRead_state {r : Nat} (s : State) (h2 : r ≠ 2) (h7 : r ≠ 7) : (s.ppuRegRead r).2 = s := by
  unfold ppuRegRead
  split
  case h_1 => exact absurd rfl h2
  case h_3 => exact absurd rfl h7
  all_goals rfl

/-- Of the I/O window, only $4015 and $4016 have a read effect (R273, R872). -/
theorem ioRead_state {n : Nat} (s : State) (h15 : n ≠ 0x4015) (h16 : n ≠ 0x4016) : (s.ioRead n).2 = s := by
  unfold ioRead
  rw [if_neg h15, if_neg h16]
  split <;> rfl

/-- A read outside the four registers with an effect changes the open-bus latch alone (R273). -/
theorem memRead_withoutEffect (s : State) {a : Addr}
    (hppu : 0x2000 ≤ a.toNat → a.toNat ≤ 0x3FFF → a.toNat % 8 ≠ 2 ∧ a.toNat % 8 ≠ 7)
    (h15 : a.toNat ≠ 0x4015) (h16 : a.toNat ≠ 0x4016) : (s.memRead a).2 = s.setOpenBus (s.memRead a).1 := by
  have hbus : (s.busRead a).2 = s := by
    unfold busRead
    split; · rfl
    split
    · obtain ⟨h2, h7⟩ := hppu (by omega) (by omega)
      exact s.ppuRegRead_state h2 h7
    split; · exact s.ioRead_state h15 h16
    split; · rfl
    split <;> rfl
  exact congrArg (setOpenBus · (s.busRead a).1) hbus

/-- R871's high bits, by the parameter. -/
theorem padHighBits_eq (s : State) :
    s.padHighBits = if s.params.controllerHighBits = .openBus then s.openBus &&& 0xE0 else 0 := by
  unfold padHighBits
  cases s.params.controllerHighBits <;> rfl

/-- A port-1 read's bit 0 is the low bit of the byte it is taken from. -/
theorem bitByte_getLsbD_zero : ∀ b : Byte, bitByte (b.getLsbD 0) = b &&& 1 := by decide

/-- The controller's shift register, read: a 1 enters at the top (R871). -/
theorem shiftRight_or_top : ∀ b : Byte, b >>> 1 ||| 0x80 = BitVec.ofNat 8 (b.toNat / 2 + 128) := by decide

/-- With the strobe high, a read reloads the latch and gives the lowest button (R871). -/
theorem readPad1_strobe {s : State} (h : s.pad.strobe = true) :
    s.readPad1 = (s.padHighBits ||| (Config.hostButtons s.cycles &&& 1), s.reloadPad) := by
  rw [readPad1, if_pos h, bitByte_getLsbD_zero]

/-- With the strobe low, a read gives the shift register's lowest bit and shifts a 1 in (R871). -/
theorem readPad1_shift {s : State} (h : s.pad.strobe = false) :
    s.readPad1 = (s.padHighBits ||| (s.pad.shift &&& 1),
      { s with pad := { s.pad with shift := BitVec.ofNat 8 (s.pad.shift.toNat / 2 + 128) } }) := by
  rw [readPad1, if_neg (ne_true_of_eq_false h), bitByte_getLsbD_zero, shiftRight_or_top]

/-- A $4016 write sets the strobe, and reloads the latch while it is or was high (R870). -/
theorem writeStrobe_eq (s : State) (v : Byte) :
    s.writeStrobe v =
      { s with
        pad := if v.getLsbD 0 = true ∨ s.pad.strobe = true then
            { buttons := Config.hostButtons s.cycles, shift := Config.hostButtons s.cycles, strobe := v.getLsbD 0 }
          else { s.pad with strobe := false } } := by
  unfold writeStrobe
  dsimp only
  by_cases h : v.getLsbD 0 = true ∨ s.pad.strobe = true
  · rw [if_pos (by simpa using h), if_pos h]
    rfl
  · have hlow : v.getLsbD 0 = false := by simpa using fun h0 => h (.inl h0)
    rw [if_neg (by simpa using h), if_neg h, hlow]

theorem memRead_port1 (s : State) : s.memRead 0x4016 = (s.readPad1.1, s.readPad1.2.setOpenBus s.readPad1.1) := rfl

theorem memRead_port2 (s : State) : s.memRead 0x4017 = (s.padHighBits, s.setOpenBus s.padHighBits) := rfl

theorem memWrite_port1 (s : State) (v : Byte) : s.memWrite 0x4016 v = (s.setOpenBus v).writeStrobe v := rfl

end State

/-- Settles O45: reads without effect by `memRead_withoutEffect`, then the four accesses of the controller ports. -/
theorem onlyFourRegistersHaveReadEffects : Obligations.OnlyFourRegistersHaveReadEffects := by
  intro s
  dsimp only
  rw [← State.padHighBits_eq, State.memRead_port1, State.memRead_port2]
  refine ⟨fun _ => s.memRead_withoutEffect, fun h => ?_, fun h => ?_, rfl, fun v => ?_⟩
  · rw [State.readPad1_strobe h]
    exact ⟨rfl, by rw [← h]; rfl⟩
  · rw [State.readPad1_shift h]
    exact ⟨rfl, rfl⟩
  · rw [State.memWrite_port1, State.writeStrobe_eq]
    rfl

/-! ## Mapper 1's serial port -/

namespace Mmc1

/-- What a serial write makes of the shift register: the low bit enters at the top (R241). -/
def shiftIn (sh : BitVec 5) (v : Byte) : BitVec 5 := (sh >>> 1) ||| (if v.getLsbD 0 then 0x10 else 0)

theorem toNat_shiftIn (sh : BitVec 5) (v : Byte) : (shiftIn sh v).toNat = sh.toNat / 2 + 16 * (v.getLsbD 0).toNat := by
  unfold shiftIn
  cases v.getLsbD 0
  · simp [Nat.shiftRight_eq_div_pow]
  · revert sh
    decide

/-- Five bits fill the shift register, whatever it held, the first of them lowest. -/
theorem shiftIn_five (sh : BitVec 5) (v0 v1 v2 v3 v4 : Byte) :
    shiftIn (shiftIn (shiftIn (shiftIn (shiftIn sh v0) v1) v2) v3) v4 =
      BitVec.ofNat 5 ((v0.getLsbD 0).toNat + 2 * (v1.getLsbD 0).toNat + 4 * (v2.getLsbD 0).toNat +
        8 * (v3.getLsbD 0).toNat + 16 * (v4.getLsbD 0).toNat) := by
  have hsh := sh.isLt
  have bit (v : Byte) : (v.getLsbD 0).toNat ≤ 1 := Bool.toNat_le _
  have h0 := bit v0
  have h1 := bit v1
  have h2 := bit v2
  have h3 := bit v3
  have h4 := bit v4
  apply BitVec.eq_of_toNat_eq
  simp only [toNat_shiftIn, BitVec.toNat_ofNat]
  omega

/-- A write with bit 7 set clears the shift state and keeps every register but the control register (R241). -/
theorem serialWrite_reset {v : Byte} (h : v.getLsbD 7 = true) (m : Mmc1) (set3 : Bool) (a : Nat) :
    m.serialWrite set3 a v =
      { m with shift := 0, count := 0, control := if set3 then m.control ||| 0x0C else m.control } := if_pos h

/-- A serial write before the fifth shifts its bit in (R241). -/
theorem serialWrite_shift {m : Mmc1} {v : Byte} (h : v.getLsbD 7 = false) (hc : m.count < 4) (set3 : Bool) (a : Nat) :
    m.serialWrite set3 a v = { m with shift := shiftIn m.shift v, count := m.count + 1 } := by
  unfold serialWrite
  rw [if_neg (ne_true_of_eq_false h), if_neg (by omega)]
  rfl

/-- The fifth serial write latches the five bits into the register the address selects, and clears the shift state (R242). -/
theorem serialWrite_latch {m : Mmc1} {v : Byte} (h : v.getLsbD 7 = false) (hc : m.count = 4) (set3 : Bool) (a : Nat) :
    m.serialWrite set3 a v =
      { m with
        shift := 0
        count := 0
        control := if a / 0x2000 % 4 = 0 then shiftIn m.shift v else m.control
        chr0 := if a / 0x2000 % 4 = 1 then shiftIn m.shift v else m.chr0
        chr1 := if a / 0x2000 % 4 = 2 then shiftIn m.shift v else m.chr1
        prg := if a / 0x2000 % 4 = 3 then shiftIn m.shift v else m.prg } := by
  unfold serialWrite
  rw [if_neg (ne_true_of_eq_false h), if_pos (by omega)]
  have hselect : a / 0x2000 % 4 = 0 ∨ a / 0x2000 % 4 = 1 ∨ a / 0x2000 % 4 = 2 ∨ a / 0x2000 % 4 = 3 := by omega
  rcases hselect with e | e | e | e <;> rw [e] <;> rfl

end Mmc1

/-- Settles O46: the mapper's answer to the write, `memWrite_program`, by mapper. -/
theorem programSpaceWritesGoToTheMapper : Obligations.ProgramSpaceWritesGoToTheMapper := by
  intro s a v ha
  rw [s.memWrite_program v ha]
  refine ⟨State.prgWrite_cart _ _ _, fun hm => State.prgWrite_nrom (s := s.setOpenBus v) hm _ _, fun hm => ?_⟩
  rw [State.prgWrite_mmc1 (s := s.setOpenBus v) hm]
  refine ⟨rfl, fun h7 => ?_⟩
  rw [Mmc1.serialWrite_reset h7]
  exact ⟨rfl, rfl, rfl⟩

/-- Settles O47: four writes shift and the fifth latches; the bits are `shiftIn_five`. -/
theorem fiveSerialWritesLatchARegister : Obligations.FiveSerialWritesLatchARegister := by
  intro m set3 a0 a1 a2 a3 a4 v0 v1 v2 v3 v4 hc hv
  simp only [List.forall_mem_cons, List.not_mem_nil, false_imp_iff, forall_const, and_true] at hv
  obtain ⟨h0, h1, h2, h3, h4⟩ := hv
  dsimp only
  rw [← Mmc1.shiftIn_five m.shift, Mmc1.serialWrite_shift h0 (by omega), Mmc1.serialWrite_shift h1 (by simp [hc]),
    Mmc1.serialWrite_shift h2 (by simp [hc]), Mmc1.serialWrite_shift h3 (by simp [hc]),
    Mmc1.serialWrite_latch h4 (by simp [hc])]

/-! ## Program banks -/

/-- The bank register without its low bit (R244). -/
theorem toNat_and_evenBank : ∀ b : BitVec 5, (b &&& 0x0E).toNat = b.toNat % 16 / 2 * 2 := by decide

/-- The bank register's four bits (R244). -/
theorem toNat_and_bank : ∀ b : BitVec 5, (b &&& 0x0F).toNat = b.toNat % 16 := by decide

namespace Mmc1

/-- Modes 0 and 1 switch 32 KiB (R244). -/
theorem prgBank_switch32 {m : Mmc1} (h : m.prgMode ≤ 1) (n : Nat) (high : Bool) :
    m.prgBank n high = (m.prg.toNat % 16 / 2 * 2 + if high then 1 else 0) % n := by
  rw [prgBank, if_pos h, toNat_and_evenBank]
  cases high <;> rfl

/-- Mode 2 fixes the first bank low (R244). -/
theorem prgBank_fixFirst {m : Mmc1} (h : m.prgMode = 2) (n : Nat) (high : Bool) :
    m.prgBank n high = if high then m.prg.toNat % 16 % n else 0 := by
  rw [prgBank, if_neg (by omega), if_pos h, toNat_and_bank]

/-- Mode 3 fixes the last bank high (R244). -/
theorem prgBank_fixLast {m : Mmc1} (h : m.prgMode = 3) (n : Nat) (high : Bool) :
    m.prgBank n high = if high then n - 1 else m.prg.toNat % 16 % n := by
  rw [prgBank, if_neg (by omega), if_neg (by omega), toNat_and_bank]

end Mmc1

namespace State

/-- Mapper 0 with one bank has it in both halves of program space (R230). -/
theorem prgIndex_nrom_one {s : State} (hm : s.cart.mapper = .nrom) (hn : s.cart.prgBanks = 1) {a : Nat} (h : 0x8000 ≤ a) :
    s.prgIndex a = a % 16384 := by
  simp only [prgIndex, hm, hn]
  omega

/-- Mapper 0 with two banks has the first low and the second high (R230). -/
theorem prgIndex_nrom_two {s : State} (hm : s.cart.mapper = .nrom) (hn : s.cart.prgBanks = 2) {a : Nat} (h : 0x8000 ≤ a)
    (h' : a ≤ 0xFFFF) : s.prgIndex a = (if 0xC000 ≤ a then 1 else 0) * 16384 + a % 16384 := by
  simp only [prgIndex, hm, hn]
  split <;> omega

/-- Mapper 1 reads the bank it puts at the address's half (R244). -/
theorem prgIndex_mmc1 {s : State} (hm : s.cart.mapper = .mmc1) (a : Nat) :
    s.prgIndex a = s.mmc1.prgBank s.cart.prgBanks (decide (0xC000 ≤ a)) * 16384 + a % 16384 := by
  simp only [prgIndex, hm]

end State

/-- Settles O48: the index of the program byte, by mapper and by mode. -/
theorem programBanksFollowTheMapper : Obligations.ProgramBanksFollowTheMapper := by
  intro s a hlow hhigh hn
  dsimp only [State.prgRead]
  refine ⟨fun hm h1 => ?_, fun hm h2 => ?_, fun hm => ⟨fun h => ?_, fun h => ?_, fun h => ?_⟩⟩
  · rw [State.prgIndex_nrom_one hm h1 hlow, Nat.zero_mul, Nat.zero_add]
  · rw [State.prgIndex_nrom_two hm h2 hlow hhigh]
    simp only [decide_eq_true_eq]
  · rw [State.prgIndex_mmc1 hm, Mmc1.prgBank_switch32 h]
  · rw [State.prgIndex_mmc1 hm, Mmc1.prgBank_fixFirst h]
  · rw [State.prgIndex_mmc1 hm, Mmc1.prgBank_fixLast h]

/-! ## Loading an image -/

/-- An image without a fault passes each of the seven checks (R262). -/
theorem imageFault_eq_none (img : List Byte) :
    imageFault img = none ↔
      img.take 4 = signature ∧ imagePrgBanks img ≠ 0 ∧ mapperId img ≤ 1 ∧
      (headerByte img 6).getLsbD 2 = false ∧ (headerByte img 6).getLsbD 3 = false ∧
      16 + 16384 * imagePrgBanks img + 8192 * imageChrBanks img ≤ img.length ∧
      (mapperId img = 0 → imagePrgBanks img ≤ 2 ∧ imageChrBanks img ≤ 1) := by
  simp only [imageFault, ite_eq_iff, reduceCtorEq, and_false, and_true, false_or, not_not, not_lt, not_and, not_or,
    Bool.not_eq_true, ne_eq]

/-- A load gives a machine where it finds no fault (R1100 step 1). -/
theorem powerOnImage_next_iff (img : List Byte) (p : Params) :
    (∃ s, powerOnImage img p = .next s) ↔ imageFault img = none := by
  unfold powerOnImage
  cases imageFault img <;> simp

/-- Settles O60: a machine is made where `imageFault` finds nothing. -/
theorem loadErrorsGiveNoMachine : Obligations.LoadErrorsGiveNoMachine := fun img p =>
  (powerOnImage_next_iff img p).trans (imageFault_eq_none img)

end Sys2Proof.Machine
end

section
/-! The decoder and the encoder agree (R300 to R350). `Instr.MatchesRow` says it of one instruction and its row of the decode
table: the row reads the instruction back from its operand bytes, and whatever the row reads has its opcode byte. One lemma
for each shape of row shows it, and one case split over the instructions collects them. -/

namespace Sys2Proof

/-! ## Words and their bytes (R16, R302) -/

@[simp] theorem loByte_join (hi lo : Byte) : loByte (join hi lo) = lo := BitVec.extractLsb'_append_eq_right

@[simp] theorem hiByte_join (hi lo : Byte) : hiByte (join hi lo) = hi := BitVec.extractLsb'_append_eq_left

@[simp] theorem join_hiByte_loByte (w : Addr) : join (hiByte w) (loByte w) = w :=
  (BitVec.extractLsb'_append_extractLsb'_eq_extractLsb' rfl).trans BitVec.extractLsb'_eq_self

/-! ## Operands -/

/-- A mode reads operands of that mode. -/
theorem mode_ofBytes (o : Operand) (b1 b2 : Byte) : (Operand.ofBytes o.mode b1 b2).mode = o.mode := by cases o <;> rfl

theorem length_bytes (o : Operand) : o.bytes.length = o.mode.operandBytes := by cases o <;> rfl

/-- The operand read has the operand bytes that its mode takes (R301, R302). -/
theorem bytes_ofBytes (o : Operand) (b1 b2 : Byte) :
    (Operand.ofBytes o.mode b1 b2).bytes = [b1, b2].take o.mode.operandBytes := by
  cases o <;> simp [Operand.mode, Operand.ofBytes, Operand.bytes, Mode.operandBytes]

/-- An operand is read back from its bytes. -/
theorem ofBytes_of_bytes {o : Operand} {b1 b2 : Byte} (h : [b1, b2].take o.mode.operandBytes = o.bytes) :
    Operand.ofBytes o.mode b1 b2 = o := by
  cases o <;> simp_all [Operand.mode, Operand.ofBytes, Operand.bytes, Mode.operandBytes]

/-! ## An instruction and its row -/

/-- The instruction and the row of an opcode byte agree: the row takes as many operand bytes as the instruction has and reads
the instruction back from them, and whatever the row reads has that opcode byte and the bytes read. -/
structure Instr.MatchesRow (i : Instr) (n : Nat) (r : Row) : Prop where
  length : i.operandBytes.length = r.operands
  build_of_bytes : ∀ b1 b2, [b1, b2].take r.operands = i.operandBytes → r.build b1 b2 = i
  opcode_build : ∀ b1 b2, (r.build b1 b2).opcode = some n
  bytes_build : ∀ b1 b2, (r.build b1 b2).operandBytes = [b1, b2].take r.operands

/-- The row reads the operand of a mnemonic in a mode. -/
structure Row.ReadsOperand (r : Row) (f : Operand → Instr) (m : Mode) : Prop where
  operands : r.operands = m.operandBytes
  build : r.build = fun b1 b2 => f (.ofBytes m b1 b2)

namespace Instr.MatchesRow

variable {n : Nat} {r : Row}

/-- A row without operand bytes. -/
theorem ofNone {i : Instr} (hrow : r.operands = 0) (hbuild : r.build = fun _ _ => i) (hop : i.opcode = some n)
    (hbytes : i.operandBytes = []) : i.MatchesRow n r := by
  constructor <;> simp [hrow, hbuild, hop, hbytes]

/-- A row with one operand byte. -/
theorem ofByte {f : Byte → Instr} {v : Byte} (hrow : r.operands = 1) (hbuild : r.build = fun b1 _ => f b1)
    (hop : ∀ b, (f b).opcode = some n) (hbytes : ∀ b, (f b).operandBytes = [b]) : (f v).MatchesRow n r := by
  constructor <;> simp +contextual [hrow, hbuild, hop, hbytes]

/-- A row with an address. -/
theorem ofWord {f : Addr → Instr} {w : Addr} (hrow : r.operands = 2) (hbuild : r.build = fun b1 b2 => f (join b2 b1))
    (hop : ∀ a, (f a).opcode = some n) (hbytes : ∀ a, (f a).operandBytes = [loByte a, hiByte a]) :
    (f w).MatchesRow n r := by
  constructor <;> simp +contextual [hrow, hbuild, hop, hbytes]

/-- A row with an operand, for a mnemonic whose opcode byte depends on the mode alone. -/
theorem ofOperand {f : Operand → Instr} {o : Operand} (hrow : r.ReadsOperand f o.mode)
    (hop : ∀ o', o'.mode = o.mode → (f o').opcode = some n) (hbytes : ∀ o', (f o').operandBytes = o'.bytes) :
    (f o).MatchesRow n r := by
  obtain ⟨hops, hbuild⟩ := hrow
  constructor
  case length => rw [hbytes, hops, length_bytes]
  case build_of_bytes =>
    intro b1 b2 h
    rw [hbytes, hops] at h
    simp only [hbuild, ofBytes_of_bytes h]
  case opcode_build =>
    intro b1 b2
    rw [hbuild]
    exact hop _ (mode_ofBytes o b1 b2)
  case bytes_build =>
    intro b1 b2
    rw [hbuild, hbytes, hops, bytes_ofBytes]

end Instr.MatchesRow

/-- The opcode byte a form list gives is that of an entry with the operand's mode. -/
theorem mem_of_pickForm {o : Operand} {forms : List (Mode × Nat)} {n : Nat} (h : pickForm o forms = some n) :
    (o.mode, n) ∈ forms := by
  obtain ⟨⟨m, k⟩, hfind, rfl⟩ := Option.map_eq_some_iff.mp h
  have hmode : m = o.mode := by simpa using List.find?_some hfind
  exact hmode ▸ List.mem_of_find?_eq_some hfind

/-- A form list looks at the mode alone. -/
theorem pickForm_congr {o o' : Operand} (h : o'.mode = o.mode) (forms : List (Mode × Nat)) :
    pickForm o' forms = pickForm o forms := by
  rw [pickForm, h, pickForm]

/-- A mnemonic with a form list, each of whose entries names a row that reads its mode. -/
theorem matchesRow_of_forms {f : Operand → Instr} {forms : List (Mode × Nat)} {o : Operand} {n : Nat}
    (hop : ∀ o, (f o).opcode = pickForm o forms) (hbytes : ∀ o, (f o).operandBytes = o.bytes)
    (hrows : forms.Forall fun e => (rowOf (BitVec.ofNat 8 e.2)).ReadsOperand f e.1) (h : (f o).opcode = some n) :
    (f o).MatchesRow n (rowOf (BitVec.ofNat 8 n)) := by
  have hrow := List.forall_iff_forall_mem.mp hrows _ (mem_of_pickForm ((hop o).symm.trans h))
  refine .ofOperand hrow (fun o' hm => ?_) hbytes
  rw [hop, pickForm_congr hm, ← hop, h]

/-- *NOP in its memory forms, whose rows R703 lists by mode. -/
theorem matchesRow_nopMemory {k : Fin 6} {o : Operand} {n : Nat} (h : (Instr.nopMemory k o).opcode = some n) :
    (Instr.nopMemory k o).MatchesRow n (rowOf (BitVec.ofNat 8 n)) := by
  have hrow : (rowOf (BitVec.ofNat 8 n)).ReadsOperand (.nopMemory k) o.mode := by
    cases o <;> fin_cases k <;> cases h <;> exact ⟨rfl, rfl⟩
  refine .ofOperand hrow (fun o' hm => ?_) fun _ => rfl
  rw [← h]
  simp only [Instr.opcode, hm]

/-- Every instruction matches the row of its opcode byte. -/
theorem matchesRow_of_opcode (i : Instr) {n : Nat} (h : i.opcode = some n) :
    i.MatchesRow n (rowOf (BitVec.ofNat 8 n)) := by
  cases i
  case tax | tay | txa | tya | tsx | txs | inx | iny | dex | dey | rts | rti | pha | pla | php | plp | clc | sec | cli |
      sei | cld | sed | clv | nop =>
    cases h
    exact .ofNone rfl rfl rfl rfl
  case nopImplied k | jam k => fin_cases k <;> cases h <;> exact .ofNone rfl rfl rfl rfl
  case bpl | bmi | bvc | bvs | bcc | bcs | bne | beq | brk | sbcUnofficial | alr | arr | xaa | lxa | axs =>
    cases h
    exact .ofByte rfl rfl (fun _ => rfl) fun _ => rfl
  case nopImmediate k v | anc k v => fin_cases k <;> cases h <;> exact .ofByte rfl rfl (fun _ => rfl) fun _ => rfl
  case jmpAbs | jmpInd | jsr =>
    cases h
    exact .ofWord rfl rfl (fun _ => rfl) fun _ => rfl
  case nopMemory => exact matchesRow_nopMemory h
  -- every other mnemonic works on an operand and has a form list
  all_goals exact matchesRow_of_forms (fun _ => rfl) (fun _ => rfl) (by repeat' constructor) h

/-! ## Well-formed instructions, and the instructions read -/

namespace Laws.Encoding

/-- The lemmas of the constructors, collected. -/
theorem statement (i : Instr) : Statement i := by
  cases i <;> simp only [lda, ldx, ldy, sta, stx, sty, tax, tay, txa, tya, tsx, txs, adc, sbc, and, ora, eor, bit, cmp, cpx,
    cpy, inc, dec, inx, iny, dex, dey, asl, lsr, rol, ror, bpl, bmi, bvc, bvs, bcc, bcs, bne, beq, jmpAbs, jmpInd, jsr, rts,
    rti, brk, pha, pla, php, plp, clc, sec, cli, sei, cld, sed, clv, nop, nopImplied, nopImmediate, nopMemory, sbcUnofficial,
    lax, sax, dcp, isb, slo, rla, sre, rra, sha, shx, shy, tas, jam, anc, alr, arr, xaa, lxa, las, axs]

end Laws.Encoding

/-- An instruction is well-formed where it has an opcode byte (R320). -/
theorem wellFormed_iff (i : Instr) : i.wellFormed = true ↔ ∃ n, i.opcode = some n := by
  rw [← Laws.Encoding.statement i, Option.isSome_iff_exists]

/-- The table and the encoding lists of the instruction rules give each opcode byte to the same instruction (R320). -/
theorem opcode_instrOf_zero : ∀ b : Byte, (instrOf b 0 0).opcode = some b.toNat := by decide

/-- Whatever follows an opcode byte, the instruction read has it, and its operand bytes are those its row takes. -/
theorem instrOf_opcode_and_bytes (b0 b1 b2 : Byte) :
    (instrOf b0 b1 b2).opcode = some b0.toNat ∧ (instrOf b0 b1 b2).operandBytes = [b1, b2].take (rowOf b0).operands := by
  have h := matchesRow_of_opcode _ (opcode_instrOf_zero b0)
  rw [BitVec.ofNat_toNat, BitVec.setWidth_eq] at h
  exact ⟨h.opcode_build b1 b2, h.bytes_build b1 b2⟩

theorem rowOf_operands_le : ∀ b : Byte, (rowOf b).operands ≤ 2 := by decide

/-! ## The decoder and the encoder -/

/-- The bytes a row can take are the first two after the opcode. -/
theorem take_getD {l : List Byte} {n : Nat} (h2 : n ≤ 2) (hl : n ≤ l.length) :
    [l.getD 0 0, l.getD 1 0].take n = l.take n := by
  obtain rfl | rfl | rfl : n = 0 ∨ n = 1 ∨ n = 2 := by omega
  · rfl
  · obtain ⟨a, l, rfl⟩ := List.exists_cons_of_length_pos hl
    rfl
  · obtain _ | ⟨a, _ | ⟨b, l⟩⟩ := l
    · simp at hl
    · simp at hl
    · rfl

/-- The decoder reads an instruction where the operand bytes its row takes are there, and leaves the bytes after them. -/
theorem decode_cons_eq_ok {b : Byte} {l rest : List Byte} {i : Instr} :
    decode (b :: l) = .ok (i, rest) ↔
      (rowOf b).operands ≤ l.length ∧ instrOf b (l.getD 0 0) (l.getD 1 0) = i ∧ l.drop (rowOf b).operands = rest := by
  rw [decode]
  split
  case isTrue h => simp [h]
  case isFalse h => simp [Nat.le_of_not_lt h]

theorem encode_of_opcode {i : Instr} {n : Nat} (h : i.opcode = some n) :
    encode i = BitVec.ofNat 8 n :: i.operandBytes := by
  simp only [encode, h]

/-- What the decoder reads is well-formed and is encoded by the bytes read. -/
theorem encode_of_decode {bytes rest : List Byte} {i : Instr} (h : decode bytes = .ok (i, rest)) :
    i.wellFormed = true ∧ encode i ++ rest = bytes := by
  cases bytes with
  | nil => cases h
  | cons b l =>
    obtain ⟨hlen, rfl, rfl⟩ := decode_cons_eq_ok.mp h
    obtain ⟨hop, hbytes⟩ := instrOf_opcode_and_bytes b (l.getD 0 0) (l.getD 1 0)
    refine ⟨(wellFormed_iff _).mpr ⟨_, hop⟩, ?_⟩
    rw [encode_of_opcode hop, hbytes, take_getD (rowOf_operands_le b) hlen, BitVec.ofNat_toNat,
      BitVec.setWidth_eq, List.cons_append, List.take_append_drop]

/-- A well-formed instruction is read back from its encoding. -/
theorem decode_encode {i : Instr} (h : i.wellFormed = true) (rest : List Byte) :
    encode i ≠ [] ∧ decode (encode i ++ rest) = .ok (i, rest) := by
  obtain ⟨n, hop⟩ := (wellFormed_iff i).mp h
  have hrow := matchesRow_of_opcode i hop
  have hlen : (rowOf (BitVec.ofNat 8 n)).operands ≤ (i.operandBytes ++ rest).length := by
    rw [List.length_append, hrow.length]
    exact Nat.le_add_right _ _
  rw [encode_of_opcode hop, List.cons_append]
  refine ⟨List.cons_ne_nil _ _, decode_cons_eq_ok.mpr ⟨hlen, hrow.build_of_bytes _ _ ?_, ?_⟩⟩
  · rw [take_getD (rowOf_operands_le _) hlen, ← hrow.length, List.take_left]
  · rw [← hrow.length, List.drop_left]

/-- The decoder reads an instruction from any three bytes: a row takes at most two after the opcode. -/
theorem decode_three (b0 b1 b2 : Byte) :
    decode [b0, b1, b2] = .ok (instrOf b0 b1 b2, [b1, b2].drop (rowOf b0).operands) :=
  decode_cons_eq_ok.mpr ⟨rowOf_operands_le b0, rfl, rfl⟩

/-- Settles O1, by `decode_encode`: a well-formed instruction has an opcode byte, whose row it matches. -/
theorem decodeInvertsEncode : Obligations.DecodeInvertsEncode := fun _ rest h => decode_encode h rest

/-- Settles O2: the row of the opcode byte read matches what was read, and a row takes at most two operand bytes. -/
theorem encodeInvertsDecode : Obligations.EncodeInvertsDecode :=
  ⟨fun _ _ _ => encode_of_decode, fun b0 b1 b2 => ⟨_, _, decode_three b0 b1 b2⟩⟩

/-- Settles O3, by running the decoder on the twelve words. -/
theorem wordsDecodeAsTheTableSays : Obligations.WordsDecodeAsTheTableSays := by
  unfold Obligations.WordsDecodeAsTheTableSays
  decide

end Sys2Proof
end

section
/-! The step of an instruction whose bytes are in storage (R330, R331, R861, R862): a fetch from storage reads the bytes that
`Peek` shows and touches nothing but PC, the cycles and the open bus, `State.afterFetch`, so what is executed is what those
bytes decode to. -/

namespace Sys2Proof.Machine
namespace State

/-! ## Fetching from storage -/

/-- What stands in storage (R880). -/
theorem peek_stored (s : State) {a : Addr} (h : isStored a = true) :
    s.peek a = if a.toNat ≤ 0x1FFF then s.ramByte (a.toNat % 0x800)
      else if a.toNat ≤ 0x7FFF then s.sramByte (a.toNat - 0x6000) else s.prgRead a.toNat := by
  simp only [isStored, Bool.or_eq_true, decide_eq_true_eq] at h
  unfold peek
  split; · rfl
  rw [if_neg (by omega), if_neg (by omega)]

/-- Storage does not look at the open-bus latch. -/
theorem setOpenBus_peek (s : State) (v : Byte) {a : Addr} (h : isStored a = true) : (s.setOpenBus v).peek a = s.peek a := by
  rw [peek_stored _ h, peek_stored _ h]
  rfl

/-- A read of storage gives the byte that stands there and changes the open-bus latch alone (R210, R215). -/
theorem memRead_stored (s : State) {a : Addr} (h : isStored a = true) : s.memRead a = (s.peek a, s.setOpenBus (s.peek a)) := by
  have hbus : s.busRead a = (s.peek a, s) := by
    rw [peek_stored s h]
    simp only [isStored, Bool.or_eq_true, decide_eq_true_eq] at h
    unfold busRead
    split; · rfl
    rw [if_neg (by omega), if_neg (by omega), if_neg (by omega)]
    split <;> rfl
  rw [memRead, hbus]

/-- The state with `n` bytes of an instruction in storage fetched and `c` cycles counted: PC past them and the last byte read
on the bus, which is the opcode where `n` is 0 (R330, R331, R340). -/
def afterFetch (s : State) (n c : Nat) : State :=
  { s with
    cycles := s.cycles + c
    openBus := s.peek (s.regs.pc + BitVec.ofNat 16 (n - 1))
    regs := { s.regs with pc := s.regs.pc + BitVec.ofNat 16 n } }

theorem afterFetch_peek (s : State) (n c : Nat) {a : Addr} (h : isStored a = true) : (s.afterFetch n c).peek a = s.peek a :=
  s.setOpenBus_peek _ h

/-- Reading the opcode fetches nothing yet. -/
theorem memRead_pc_stored (s : State) (h : isStored s.regs.pc = true) :
    s.memRead s.regs.pc = (s.peek s.regs.pc, s.afterFetch 0 0) := by
  rw [memRead_stored s h, afterFetch, BitVec.add_zero]
  rfl

/-- Going on past the opcode makes it the first byte fetched (R330). -/
theorem afterFetch_zero_setPc (s : State) (c : Nat) :
    ((s.afterFetch 0 0).setPc (s.regs.pc + 1)).addCycles c = s.afterFetch 1 c := rfl

/-- Each operand byte fetched is the next one (R331, R400). -/
theorem afterFetch_fetchByte (s : State) (n c : Nat) (h : isStored (s.regs.pc + BitVec.ofNat 16 n) = true) :
    (s.afterFetch n c).fetchByte = (s.peek (s.regs.pc + BitVec.ofNat 16 n), s.afterFetch (n + 1) c) := by
  have hread := memRead_stored (s.afterFetch n c) h
  rw [afterFetch_peek s n c h] at hread
  have hpc : s.regs.pc + BitVec.ofNat 16 (n + 1) = s.regs.pc + BitVec.ofNat 16 n + 1 := by
    rw [BitVec.ofNat_add, BitVec.add_assoc]
    rfl
  unfold fetchByte
  rw [show (s.afterFetch n c).regs.pc = s.regs.pc + BitVec.ofNat 16 n from rfl, hread, ← hpc]
  rfl

theorem rowOf_fetches_le : ∀ b : Byte, (rowOf b).fetches ≤ 2 := by decide

section
variable {s : State} (h0 : isStored s.regs.pc = true) (h1 : isStored (s.regs.pc + 1) = true)
  (h2 : isStored (s.regs.pc + 2) = true)
include h0 h1 h2

/-- A parked row's instruction is the one its three bytes are, with nothing fetched past the opcode (R340). -/
theorem fetchInstr_parked (hp : parks (rowOf (s.peek s.regs.pc)) s.params = true) :
    s.fetchInstr = ⟨instrOf (s.peek s.regs.pc) (s.peek (s.regs.pc + 1)) (s.peek (s.regs.pc + 2)), s.afterFetch 0 0⟩ := by
  unfold fetchInstr
  simp only [memRead_pc_stored s h0, afterFetch_peek s _ _ h1, afterFetch_peek s _ _ h2]
  exact if_pos hp

/-- Any other instruction is the one its three bytes are, with the bytes its row names fetched and its base cycles counted
(R330, R331). -/
theorem fetchInstr_unparked (hp : parks (rowOf (s.peek s.regs.pc)) s.params = false) :
    s.fetchInstr = ⟨instrOf (s.peek s.regs.pc) (s.peek (s.regs.pc + 1)) (s.peek (s.regs.pc + 2)),
      s.afterFetch (1 + (rowOf (s.peek s.regs.pc)).fetches) (rowOf (s.peek s.regs.pc)).base⟩ := by
  have hpc1 : ∀ c, (s.afterFetch 1 c).regs.pc = s.regs.pc + 1 := fun _ => rfl
  have hpc2 : ∀ c, (s.afterFetch 2 c).regs.pc = s.regs.pc + 2 := fun _ => rfl
  have hnext : s.regs.pc + 1 + 1 = s.regs.pc + 2 := BitVec.add_assoc ..
  have fetch1 : ∀ c, (s.afterFetch 1 c).fetchByte = (s.peek (s.regs.pc + 1), s.afterFetch 2 c) :=
    fun c => s.afterFetch_fetchByte 1 c h1
  have fetch2 : ∀ c, (s.afterFetch 2 c).fetchByte = (s.peek (s.regs.pc + 2), s.afterFetch 3 c) :=
    fun c => s.afterFetch_fetchByte 2 c h2
  unfold fetchInstr instrOf
  simp only [memRead_pc_stored s h0, afterFetch_zero_setPc]
  rw [if_neg (ne_true_of_eq_false hp)]
  obtain hf | hf | hf : (rowOf (s.peek s.regs.pc)).fetches = 0 ∨ (rowOf (s.peek s.regs.pc)).fetches = 1 ∨
      (rowOf (s.peek s.regs.pc)).fetches = 2 := by
    have hle := rowOf_fetches_le (s.peek s.regs.pc)
    omega
  · simp only [hf, hpc1, hnext, afterFetch_peek s _ _ h1, afterFetch_peek s _ _ h2]
  · simp only [hf, fetch1, hpc2, afterFetch_peek s _ _ h2]
  · simp only [hf, fetch1, fetch2]

/-- The bytes at PC, all in storage, are fetched as the instruction they decode to (R330, R331, R340). -/
theorem fetchInstr_of_decode {i : Instr} {rest : List Byte}
    (hdec : decode [s.peek s.regs.pc, s.peek (s.regs.pc + 1), s.peek (s.regs.pc + 2)] = .ok (i, rest)) :
    let row := rowOf (s.peek s.regs.pc)
    s.fetchInstr =
      ⟨i, s.afterFetch (if parks row s.params then 0 else 1 + row.fetches) (if parks row s.params then 0 else row.base)⟩ := by
  cases (decode_three ..).symm.trans hdec
  cases hp : parks (rowOf (s.peek s.regs.pc)) s.params
  case true => simpa only [hp, if_true] using fetchInstr_parked h0 h1 h2 hp
  case false => simpa only [hp, Bool.false_eq_true, if_false] using fetchInstr_unparked h0 h1 h2 hp

end

/-! ## The processor call -/

/-- A call that would execute an instruction does, with the poll no longer held off (R815, R861). -/
theorem processorCall_of_runsInstruction {s : State} (h : s.runsInstruction = true) :
    s.processorCall = executeInstruction { s with noPollOnce := false } := by
  simp only [runsInstruction, Bool.and_eq_true, Bool.or_eq_true, Bool.not_eq_true'] at h
  obtain ⟨⟨⟨hr, hh⟩, hd⟩, hpoll⟩ := h
  rw [processorCall, if_neg (ne_true_of_eq_false hr), if_neg (ne_true_of_eq_false hh), if_neg (ne_true_of_eq_false hd)]
  by_cases hn : s.noPollOnce = true
  · rw [if_pos hn]
  · obtain ⟨hnmi, hirq⟩ := hpoll.resolve_left hn
    rw [if_neg hn, if_neg (ne_true_of_eq_false hnmi), if_neg (ne_true_of_eq_false hirq),
      ← Bool.eq_false_of_not_eq_true hn]

end State

/-- Settles O39: the call executes the instruction at PC, and what it fetches is what the bytes there decode to. -/
theorem stepRunsTheDecodedInstruction : Obligations.StepRunsTheDecodedInstruction := by
  intro s i rest pc row n fetched hrun h0 h1 h2 hdec
  have hcall : ({ s with out := [] } : State).processorCall =
      ({ s with out := [], noPollOnce := false } : State).executeInstruction :=
    State.processorCall_of_runsInstruction hrun
  have hfetch : ({ s with out := [], noPollOnce := false } : State).fetchInstr = ⟨i, fetched⟩ :=
    State.fetchInstr_of_decode (s := { s with out := [], noPollOnce := false }) h0 h1 h2 hdec
  refine ⟨(encode_of_decode hdec).1, fun u hu => ?_, fun r hr => ?_⟩
  · unfold step
    simp only [hcall, State.executeInstruction, hfetch, hu]
    rfl
  · unfold step
    simp only [hcall, State.executeInstruction, hfetch, hr]

end Sys2Proof.Machine
end

section
/-! Addresses and operand reads (R402 to R412, R420): what a word's bytes and an indexed address are as numbers, what a
pointer in work RAM reads, and what an operand read makes of a crossed page. -/

namespace Sys2Proof

/-! ## Words and their bytes as numbers (R16) -/

@[simp] theorem toNat_hiByte (w : Addr) : (hiByte w).toNat = w.toNat / 256 := by
  rw [hiByte, BitVec.extractLsb'_toNat, Nat.shiftRight_eq_div_pow]
  omega

@[simp] theorem toNat_loByte (w : Addr) : (loByte w).toNat = w.toNat % 256 := by
  rw [loByte, BitVec.extractLsb'_toNat, Nat.shiftRight_zero]

@[simp] theorem toNat_join (hi lo : Byte) : (join hi lo).toNat = 256 * hi.toNat + lo.toNat := by
  rw [join, BitVec.toNat_append, ← Nat.shiftLeft_add_eq_or_of_lt lo.isLt, Nat.shiftLeft_eq, Nat.mul_comm]

namespace Machine

/-! ## Indexed addresses (R406, R407, R409) -/

namespace EffAddr

theorem toNat_indexed_ea (w : Addr) (i : Byte) : (indexed w i).ea.toNat = (w.toNat + i.toNat) % 65536 := by
  simp [indexed]

/-- The page is crossed when the sum's page is another than the base's. -/
theorem indexed_crossed_iff (w : Addr) (i : Byte) :
    (indexed w i).crossed = true ↔ (indexed w i).ea.toNat / 256 ≠ w.toNat / 256 := by
  simp [indexed, ← BitVec.toNat_inj]

/-- The uncorrected address keeps the base's page. -/
theorem toNat_indexed_uncorr (w : Addr) (i : Byte) :
    (indexed w i).uncorr.toNat = w.toNat / 256 * 256 + (w.toNat + i.toNat) % 256 := by
  simp [indexed, Nat.mul_comm]

end EffAddr

/-- Settles O4: `EffAddr.plain` of a byte sum for page zero, `EffAddr.indexed` for an absolute base. -/
theorem indexedAddressesWrap : Obligations.IndexedAddressesWrap := by
  intro b w s zeroPage absolute
  have zp (i : Byte) : (zext (b + i)).toNat = (b.toNat + i.toNat) % 256 := by
    rw [State.zext_toNat, BitVec.toNat_add]
  have hea := EffAddr.toNat_indexed_ea w
  have hcross := EffAddr.indexed_crossed_iff w
  have huncorr := EffAddr.toNat_indexed_uncorr w
  exact ⟨⟨State.zext_toNat b, rfl, rfl⟩, ⟨rfl, rfl, rfl⟩, ⟨zp _, rfl, rfl⟩, ⟨zp _, rfl, rfl⟩,
    ⟨hea _, hcross _, huncorr _, rfl, rfl⟩, ⟨hea _, hcross _, huncorr _, rfl, rfl⟩⟩

/-! ## Pointers (R408 to R410) -/

namespace State

/-- A read of work RAM, with the state after it: the open-bus latch alone has changed (R210, R215). -/
theorem memRead_work_eq (s : State) {a : Addr} (h : a.toNat ≤ 0x1FFF) :
    s.memRead a = (s.ramByte (a.toNat % 0x800), s.setOpenBus (s.ramByte (a.toNat % 0x800))) := by
  rw [← memRead_work s h, ← memRead_plain s (by simp [plainAddr, h])]

/-- A zero-page pointer and its latch: both bytes from page zero (R408, R409). -/
theorem readPointer_eq (s : State) (p : Byte) :
    s.readPointer p = (join (s.ramByte ((p.toNat + 1) % 256)) (s.ramByte p.toNat),
      s.setOpenBus (s.ramByte ((p.toNat + 1) % 256))) := by
  have hnext : (p + 1).toNat = (p.toNat + 1) % 256 := BitVec.toNat_add p 1
  simp only [readPointer, memRead_zext, setOpenBus_ramByte, hnext]
  rfl

/-- The second byte of a JMP pointer stands in the page of the first (R410). -/
theorem toNat_join_hiByte_loByte_add_one (w : Addr) :
    (join (hiByte w) (loByte w + 1)).toNat = w.toNat / 256 * 256 + (w.toNat + 1) % 256 := by
  simp [Nat.mul_comm]

/-- A JMP pointer in work RAM and its latch (R410). -/
theorem readIndirect_eq (s : State) {w : Addr} (h : w.toNat ≤ 0x1FFF) :
    let hi := s.ramByte ((w.toNat / 256 * 256 + (w.toNat + 1) % 256) % 0x800)
    s.readIndirect w = (join hi (s.ramByte (w.toNat % 0x800)), s.setOpenBus hi) := by
  have hnext : (join (hiByte w) (loByte w + 1)).toNat ≤ 0x1FFF := by
    rw [toNat_join_hiByte_loByte_add_one]
    omega
  simp only [readIndirect, memRead_work_eq _ h, memRead_work_eq _ hnext, toNat_join_hiByte_loByte_add_one, setOpenBus_ramByte]
  rfl

theorem effAddr_izx (s : State) (b : Byte) : s.effAddr (.izx b) =
    (.plain (s.readPointer (b + s.regs.x)).1, (s.readPointer (b + s.regs.x)).2) := rfl

theorem effAddr_izy (s : State) (b : Byte) : s.effAddr (.izy b) =
    (.indexed (s.readPointer b).1 s.regs.y, (s.readPointer b).2) := rfl

end State

/-- Settles O5: the pointers by `readPointer_eq` and `readIndirect_eq`, the index of (zp),Y as in O4. -/
theorem pointersWrapInTheirPage : Obligations.PointersWrapInTheirPage := by
  intro b s
  refine ⟨?izx, ?izy, fun w hw => ?jmp⟩
  case izx =>
    have hsum : (b + s.regs.x).toNat = (b.toNat + s.regs.x.toNat) % 256 := BitVec.toNat_add ..
    rw [State.effAddr_izx, State.readPointer_eq, hsum, Nat.mod_add_mod]
    exact ⟨toNat_join .., rfl, rfl⟩
  case izy =>
    rw [State.effAddr_izy, State.readPointer_eq]
    exact ⟨toNat_join .., EffAddr.toNat_indexed_ea .., EffAddr.indexed_crossed_iff .., EffAddr.toNat_indexed_uncorr .., rfl⟩
  case jmp =>
    rw [State.readIndirect_eq s hw]
    exact ⟨toNat_join .., rfl⟩

/-! ## Operand reads (R412, R420) -/

namespace State

/-- Every operand but the accumulator and the immediate ones names memory. -/
theorem namesMemory_of_ne {o : Operand} (hacc : o ≠ .acc) (himm : ∀ v, o ≠ .imm v) : namesMemory o = true := by
  cases o
  case acc => exact absurd rfl hacc
  case imm v => exact absurd rfl (himm v)
  all_goals rfl

/-- An index that crosses a page costs a read of the uncorrected address and a cycle (R420). -/
theorem crossPenalty_of_crossed {o : Operand} {e : EffAddr} (s : State) (hmode : indexedMode o = true)
    (hcross : e.crossed = true) : s.crossPenalty o e = (s.memRead e.uncorr).2.addCycles 1 := by
  rw [crossPenalty, hmode, hcross]
  rfl

/-- Without an index, or within the page, nothing is read first (R420). -/
theorem crossPenalty_of_uncrossed {o : Operand} {e : EffAddr} (s : State)
    (h : indexedMode o = false ∨ e.crossed = false) : s.crossPenalty o e = s :=
  if_neg (ne_true_of_eq_false (Bool.and_eq_false_iff.mpr h))

/-- An operand in work RAM is the byte at its address: neither the pointer's reads nor the dummy read change it. -/
theorem readOperand_work {o : Operand} (hm : namesMemory o = true) (s : State)
    (h : (s.effAddr o).1.ea.toNat ≤ 0x1FFF) :
    (s.readOperand o).1 = s.ramByte ((s.effAddr o).1.ea.toNat % 0x800) := by
  rw [readOperand_eq hm, memRead_work _ h]
  exact (crossPenalty_readLoc o _ _ (.work _)).trans (effAddr_readLoc o s (.work _))

end State

/-- Settles O6: an operand in memory by `readOperand_eq`, with and without the crossing's penalty. -/
theorem operandReadsPayForCrossing : Obligations.OperandReadsPayForCrossing := by
  intro o s
  refine ⟨fun v => rfl, rfl, fun hacc himm => ?_⟩
  intro e u
  have hm := State.namesMemory_of_ne hacc himm
  have hread : s.readOperand o = (u.crossPenalty o e).memRead e.ea := State.readOperand_eq hm s
  refine ⟨fun ⟨hmode, hcross⟩ => ?crossed, fun h => ?uncrossed, State.readOperand_work hm s, State.readOperand_regs o s,
    fun l _ => State.readOperand_readLoc o s l⟩
  case crossed =>
    rw [hread, State.crossPenalty_of_crossed u hmode hcross]
    exact ⟨rfl, by simp [u]⟩
  case uncrossed =>
    rw [hread, State.crossPenalty_of_uncrossed u h]
    exact ⟨rfl, by simp [u]⟩

end Machine
end Sys2Proof
end

section
/-! Loads, stores and transfers (R422, R450 to R461, R507 to R509, R516 to R519, R710, R711): an instruction that puts one
value into registers and shows it in N and Z is `State.assign`, after an operand read or none; a store is `storeOperand`. -/

namespace Sys2Proof.Machine

/-! ## One value into registers -/

/-- The registers with one value in each of those listed. -/
def Regs.fill (rs : List Reg) (v : Byte) (g : Regs) : Regs where
  a := if .a ∈ rs then v else g.a
  x := if .x ∈ rs then v else g.x
  y := if .y ∈ rs then v else g.y
  sp := if .sp ∈ rs then v else g.sp
  p := if .p ∈ rs then v else g.p
  pc := g.pc

@[simp] theorem Regs.get_fill (rs : List Reg) (v : Byte) (g : Regs) (r : Reg) :
    (g.fill rs v).get r = if r ∈ rs then v else g.get r := by
  cases r <;> rfl

namespace State

/-- One value into the registers listed, N and Z showing it. -/
def assign (rs : List Reg) (v : Byte) (s : State) : State := (s.withRegs (s.regs.fill rs v)).setP (setNZ s.regs.p v)

@[simp] theorem get_assign (rs : List Reg) (v : Byte) (s : State) (r : Reg) :
    (s.assign rs v).regs.get r = if r = .p then setNZ s.regs.p v else if r ∈ rs then v else s.regs.get r := by
  cases r <;> rfl

@[simp] theorem assign_pc (rs : List Reg) (v : Byte) (s : State) : (s.assign rs v).regs.pc = s.regs.pc := rfl

/-- An assignment keeps the registers it does not list, but P. -/
theorem assign_keepsRegs (rs : List Reg) (v : Byte) (s : State) : keepsRegs s (s.assign rs v) (.p :: rs) := by
  intro r hr
  obtain ⟨hp, hrs⟩ : r ≠ .p ∧ r ∉ rs := by simpa using hr
  rw [get_assign, if_neg hp, if_neg hrs]

/-- The registers an assignment lists hold its value. -/
theorem get_assign_of_mem {rs : List Reg} {r : Reg} (hp : .p ∉ rs) (hr : r ∈ rs) (v : Byte) (s : State) :
    (s.assign rs v).regs.get r = v := by
  have hne : r ≠ .p := fun h => hp (h ▸ hr)
  rw [get_assign, if_neg hne, if_pos hr]

/-- AND, ORA and EOR assign to A (R507 to R509): the operand read leaves A as it was. -/
theorem logic_eq_assign (f : Byte → Byte → Byte) (o : Operand) (s : State) :
    s.logic f o = (s.readOperand o).2.assign [.a] (f s.regs.a (s.readOperand o).1) := by
  simp only [logic, readOperand_regs]
  rfl

end State

/-! ## Loads and logic (R450 to R452, R507 to R509, R710) -/

/-- An instruction that assigns after its operand read loads. -/
theorem loadsTo_of_exec {i : Instr} {o : Operand} {s : State} {rs : List Reg} {v : Byte}
    (h : exec i s = .next ((s.readOperand o).2.assign rs v)) (hp : .p ∉ rs := by decide) : loadsTo i o s rs v := by
  have hregs : (s.readOperand o).2.regs = s.regs := State.readOperand_regs o s
  refine ⟨_, h, fun r hr => State.get_assign_of_mem hp hr v _, showsNZ_setNZ _ v, ?flags, fun r hr => ?regs,
    (State.assign_pc rs v _).trans (congrArg Regs.pc hregs), rfl, fun l _ => State.readOperand_readLoc o s l⟩
  case flags =>
    rw [← hregs]
    exact keepsFlags_setNZ _ v
  case regs =>
    rw [← hregs]
    exact State.assign_keepsRegs rs v _ r hr

/-- An instruction that is `State.logic` loads into A its combination with the operand. -/
theorem loadsTo_of_logic {i : Instr} {o : Operand} {s : State} {f : Byte → Byte → Byte}
    (h : exec i s = .next (s.logic f o)) : loadsTo i o s [.a] (f s.regs.a (s.readOperand o).1) :=
  loadsTo_of_exec (by rw [h, State.logic_eq_assign])

/-- Settles O7: the four loads assign the operand, the three logic instructions by `loadsTo_of_logic`. -/
theorem loadsAndLogicWriteTheirRegisters : Obligations.LoadsAndLogicWriteTheirRegisters := fun _ _ =>
  ⟨loadsTo_of_exec rfl, loadsTo_of_exec rfl, loadsTo_of_exec rfl, loadsTo_of_exec rfl, loadsTo_of_logic (f := (· &&& ·)) rfl,
    loadsTo_of_logic (f := (· ||| ·)) rfl, loadsTo_of_logic (f := (· ^^^ ·)) rfl⟩

/-! ## Stores (R422, R453 to R455, R711) -/

/-- An operand of a form that is neither the accumulator's nor the immediate one names memory. -/
theorem State.namesMemory_of_form {o : Operand} {forms : List Mode} (h : forms.contains o.mode = true)
    (hacc : .acc ∉ forms := by decide) (himm : .imm ∉ forms := by decide) : State.namesMemory o = true := by
  have hmode : o.mode ∈ forms := List.contains_iff_mem.mp h
  refine State.namesMemory_of_ne ?_ fun v => ?_
  · rintro rfl
    exact hacc hmode
  · rintro rfl
    exact himm hmode

/-- An instruction that is `storeOperand` of an operand in memory stores: computing the address and the dummy read
change no byte, so the laws of the bus write say what is kept and what is stored. -/
theorem storesTo_of_exec {i : Instr} {o : Operand} {s : State} {v : Byte} (hm : State.namesMemory o = true)
    (h : exec i s = .next (s.storeOperand o v)) : storesTo i o s v := by
  have hbytes (l : Loc) : ((s.effAddr o).2.dummyRead o (s.effAddr o).1).readLoc l = s.readLoc l := by simp
  have heq := State.storeOperand_eq hm v s
  refine ⟨_, h, State.storeOperand_regs o v s, State.storeOperand_cycles o v s, heq, ?_⟩
  rw [heq]
  exact ⟨fun l hl => State.memWrite_stores _ _ v hl, fun l hl => (State.memWrite_keepsBytes _ _ v l hl).trans (hbytes l)⟩

/-- Settles O8: every form of the four instructions names memory, and `storesTo_of_exec`. -/
theorem storesWriteTheirAddressAlone : Obligations.StoresWriteTheirAddressAlone := fun _ _ =>
  ⟨fun h => storesTo_of_exec (State.namesMemory_of_form h) rfl,
   fun h => storesTo_of_exec (State.namesMemory_of_form h) rfl,
   fun h => storesTo_of_exec (State.namesMemory_of_form h) rfl,
   fun h => storesTo_of_exec (State.namesMemory_of_form h) rfl⟩

/-! ## Transfers and counts (R456 to R461, R516 to R519) -/

/-- An instruction that assigns to one register moves. -/
theorem movesTo_of_exec {i : Instr} {s : State} {r : Reg} {v : Byte}
    (h : exec i s = .next (s.assign [r] v)) (hp : .p ∉ [r] := by decide) : movesTo i s r v :=
  ⟨_, h, State.get_assign_of_mem hp (List.mem_singleton_self r) v s, showsNZ_setNZ _ v, keepsFlags_setNZ _ v,
    State.assign_keepsRegs [r] v s, rfl, rfl⟩

/-- Counting down is adding 255 modulo 256 (R518, R519). -/
theorem sub_one_eq_ofNat (b : Byte) : b - 1 = BitVec.ofNat 8 (b.toNat + 255) := by bv_omega

/-- Settles O9: all but TXS assign to one register; TXS fills SP and leaves P. -/
theorem transfersAndCountsWriteTheirRegister : Obligations.TransfersAndCountsWriteTheirRegister := by
  intro s
  refine ⟨movesTo_of_exec rfl, movesTo_of_exec rfl, movesTo_of_exec rfl, movesTo_of_exec rfl, movesTo_of_exec rfl,
    movesTo_of_exec rfl, movesTo_of_exec rfl, ?dex, ?dey, ?txs⟩
  case dex =>
    rw [← sub_one_eq_ofNat]
    exact movesTo_of_exec rfl
  case dey =>
    rw [← sub_one_eq_ofNat]
    exact movesTo_of_exec rfl
  case txs =>
    exact ⟨s.setSp s.regs.x, rfl, rfl, fun r hr => (Regs.get_fill [.sp] s.regs.x s.regs r).trans (if_neg hr), rfl, rfl⟩

end Sys2Proof.Machine
end

section
/-! Arithmetic in A (R500 to R513, R704): binary addition as numbers, subtraction as the addition of the complement, decimal
addition and subtraction digit by digit, and the comparisons; what all of them leave as the operand read leaves it. -/

namespace Sys2Proof.Machine

/-! ## Bytes as numbers -/

theorem getLsbD_seven (b : Byte) : b.getLsbD 7 = decide (128 ≤ b.toNat) := BitVec.msb_eq_decide b

theorem toInt_byte (b : Byte) : b.toInt = if b.toNat < 128 then (b.toNat : Int) else b.toNat - 256 := by
  rw [BitVec.toInt_eq_toNat_cond]
  split <;> split <;> omega

theorem ofNat_eq_zero_iff (n : Nat) : BitVec.ofNat 8 n = 0#8 ↔ n % 256 = 0 := by
  rw [← BitVec.toNat_inj, BitVec.toNat_ofNat]
  rfl

/-- Flipping every bit is the complement to 255. -/
theorem toNat_xor_ff (m : Byte) : (m ^^^ 0xFF).toNat = 255 - m.toNat := by
  rw [show (0xFF : Byte) = BitVec.allOnes 8 from rfl, BitVec.xor_allOnes, BitVec.toNat_not]

/-- The upper digit of a byte, in its place. -/
theorem toNat_and_f0 : ∀ b : Byte, (b &&& 0xF0).toNat = 16 * (b.toNat / 16) := by decide

/-! ## Binary addition (R500) -/

section
variable (a m p : Byte)

theorem toNat_addWithCarry :
    (addWithCarry a m p).1.toNat = (a.toNat + m.toNat + (flag p .c).toNat) % 256 := BitVec.toNat_ofNat ..

theorem carry_addWithCarry :
    flag (addWithCarry a m p).2 .c = true ↔ 256 ≤ a.toNat + m.toNat + (flag p .c).toNat := by
  simp [addWithCarry, Nat.lt_iff_add_one_le]

theorem zero_addWithCarry :
    flag (addWithCarry a m p).2 .z = decide ((a.toNat + m.toNat + (flag p .c).toNat) % 256 = 0) := by
  simp [addWithCarry, ofNat_eq_zero_iff]

theorem showsNZ_addWithCarry : showsNZ (addWithCarry a m p).2 (addWithCarry a m p).1 := showsNZ_setNZ _ _

/-- V is set when both operands have the sign that the result lacks. -/
theorem overflow_addWithCarry_eq :
    flag (addWithCarry a m p).2 .v =
      ((a ^^^ (addWithCarry a m p).1) &&& (m ^^^ (addWithCarry a m p).1)).getLsbD 7 := by
  simp [addWithCarry]

/-- V is the signed overflow: the signed sum fits a byte unless the operands' common sign is lost. -/
theorem overflow_addWithCarry :
    flag (addWithCarry a m p).2 .v = true ↔
      a.toInt + m.toInt + (flag p .c).toNat < -128 ∨ 127 < a.toInt + m.toInt + (flag p .c).toNat := by
  have hc := Bool.toNat_le (flag p .c)
  have hr := toNat_addWithCarry a m p
  rw [overflow_addWithCarry_eq, BitVec.getLsbD_and, BitVec.getLsbD_xor, BitVec.getLsbD_xor]
  simp only [getLsbD_seven, Bool.and_eq_true, Bool.xor_iff_ne, ne_eq, decide_eq_decide, toInt_byte]
  split_ifs <;> omega

end

/-! ## Binary subtraction (R506): adding the complement -/

section
variable (a m p : Byte)

theorem toNat_addWithCarry_xor :
    ((addWithCarry a (m ^^^ 0xFF) p).1.toNat : Int) = (a.toNat - m.toNat - (1 - (flag p .c).toNat)) % 256 := by
  rw [toNat_addWithCarry, toNat_xor_ff]
  omega

/-- C is "no borrow". -/
theorem carry_addWithCarry_xor :
    flag (addWithCarry a (m ^^^ 0xFF) p).2 .c = true ↔ m.toNat + 1 ≤ a.toNat + (flag p .c).toNat := by
  rw [carry_addWithCarry, toNat_xor_ff]
  omega

theorem zero_addWithCarry_xor :
    flag (addWithCarry a (m ^^^ 0xFF) p).2 .z = decide ((a.toNat + 255 - m.toNat + (flag p .c).toNat) % 256 = 0) := by
  rw [zero_addWithCarry, toNat_xor_ff, Nat.add_sub_assoc (by omega)]

theorem overflow_addWithCarry_xor :
    flag (addWithCarry a (m ^^^ 0xFF) p).2 .v = true ↔
      a.toInt - m.toInt - (1 - (flag p .c).toNat) < -128 ∨ 127 < a.toInt - m.toInt - (1 - (flag p .c).toNat) := by
  have hneg : (m ^^^ 0xFF).toInt = -1 - m.toInt := by
    simp only [toInt_byte, toNat_xor_ff]
    split <;> split <;> omega
  rw [overflow_addWithCarry, hneg]
  omega

end

/-! ## Decimal digits -/

/-- The sum of the lower digits and the carry. -/
def lowSum (a m : Byte) (c : Nat) : Nat := a.toNat % 16 + m.toNat % 16 + c

/-- The sum of the upper digits and the lower sum's carry. -/
def highSum (a m : Byte) (c : Nat) : Nat := a.toNat / 16 + m.toNat / 16 + lowSum a m c / 10

/-- The byte whose two digits are the last ones of the two sums. -/
def digitSum (a m : Byte) (c : Nat) : Nat := 16 * (highSum a m c % 10) + lowSum a m c % 10

section
variable {a m : Byte} {c : Nat}

theorem lowSum_le (ha : isBcd a) (hm : isBcd m) (hc : c ≤ 1) : lowSum a m c ≤ 19 :=
  Nat.add_le_add (Nat.add_le_add ha.2 hm.2) hc

theorem highSum_le (ha : isBcd a) (hm : isBcd m) (hc : c ≤ 1) : highSum a m c ≤ 19 :=
  Nat.add_le_add (Nat.add_le_add ha.1 hm.1) (Nat.div_le_div_right (lowSum_le ha hm hc))

/-- Ten times the upper sum and the lower sum's last digit are the sum of the two numbers and the carry. -/
theorem bcdValue_add_eq (a m : Byte) (c : Nat) :
    bcdValue a + bcdValue m + c = 10 * highSum a m c + lowSum a m c % 10 := by
  simp only [bcdValue, highSum, lowSum]
  omega

/-- The digit sum is decimal, and spells the sum modulo 100. -/
theorem bcd_of_digitSum {r : Byte} (h : r.toNat = digitSum a m c) :
    isBcd r ∧ bcdValue r = (bcdValue a + bcdValue m + c) % 100 := by
  rw [bcdValue_add_eq, isBcd, bcdValue, h, digitSum]
  omega

end

/-- The byte with the nine's complements of the digits. -/
def ninesComplement (m : Byte) : Byte := 0x99 - m

theorem ninesComplement_digits {m : Byte} (h : isBcd m) :
    (ninesComplement m).toNat / 16 = 9 - m.toNat / 16 ∧ (ninesComplement m).toNat % 16 = 9 - m.toNat % 16 := by
  obtain ⟨h1, h0⟩ := h
  have hle : m ≤ 0x99 := BitVec.le_def.mpr (show m.toNat ≤ 153 by omega)
  have hval : (ninesComplement m).toNat = 153 - m.toNat := BitVec.toNat_sub_of_le hle
  rw [hval]
  omega

theorem isBcd_ninesComplement {m : Byte} (h : isBcd m) : isBcd (ninesComplement m) := by
  obtain ⟨hhigh, hlow⟩ := ninesComplement_digits h
  rw [isBcd, hhigh, hlow]
  omega

theorem bcdValue_ninesComplement {m : Byte} (h : isBcd m) : bcdValue (ninesComplement m) = 99 - bcdValue m := by
  obtain ⟨hhigh, hlow⟩ := ninesComplement_digits h
  obtain ⟨h1, h0⟩ := h
  rw [bcdValue, bcdValue, hhigh, hlow]
  omega

/-! ## Decimal addition and subtraction (R502) -/

/-- The correction of the lower digits' sum: by 6 from 10 on, and 16 for the carry. -/
theorem lowSum_corrected {lo : Nat} (h : lo ≤ 19) :
    (if 10 ≤ lo then (lo + 6) % 16 + 16 else lo) = 16 * (lo / 10) + lo % 10 := by
  split <;> omega

/-- The correction of the sum: by $60 from $A0 on. -/
theorem sum_corrected {hi d : Nat} (h : hi ≤ 19) (hd : d < 10) :
    (if 0xA0 ≤ 16 * hi + d then 16 * hi + d + 0x60 else 16 * hi + d) = 256 * (hi / 10) + (16 * (hi % 10) + d) := by
  split <;> omega

/-- The corrected sum needs a ninth bit when the upper digits' sum carries. -/
theorem sum_carries_iff {hi d : Nat} (hd : d < 10) : 0x100 ≤ 256 * (hi / 10) + (16 * (hi % 10) + d) ↔ 10 ≤ hi := by
  have hten : 1 ≤ hi / 10 ↔ 10 ≤ hi := Nat.one_le_div_iff (by decide)
  omega

/-- The correction of the lower digits' difference `lo - 10`: by 6 below 0, and 16 for the borrow. -/
theorem lowDiff_corrected {lo : Nat} (h : lo ≤ 19) :
    (if (lo : Int) - 10 < 0 then ((lo : Int) - 10 - 6) % 16 - 16 else lo - 10) =
      16 * (lo / 10 : Nat) + (lo % 10 : Nat) - 16 := by
  split <;> omega

/-- The correction of the difference: by $60 below 0. -/
theorem diff_corrected {hi d : Nat} (h : hi ≤ 19) (hd : d < 10) :
    (if 16 * (hi : Int) + d - 160 < 0 then 16 * (hi : Int) + d - 160 - 0x60 else 16 * hi + d - 160) % 256 =
      (16 * (hi % 10) + d : Nat) := by
  split <;> omega

section
variable {a m p : Byte}

/-- On decimal digits the corrected sum is the digit sum, and the carry the upper digits'. -/
theorem adcDecimal_digits (ha : isBcd a) (hm : isBcd m) :
    (adcDecimal a m p).1.toNat = digitSum a m (flag p .c).toNat ∧
      (flag (adcDecimal a m p).2 .c = true ↔ 10 ≤ highSum a m (flag p .c).toNat) := by
  have hc := Bool.toNat_le (flag p .c)
  have hlow : a.toNat % 16 + m.toNat % 16 + (flag p .c).toNat = lowSum a m (flag p .c).toNat := rfl
  have hsum : 16 * (a.toNat / 16) + 16 * (m.toNat / 16) +
      (16 * (lowSum a m (flag p .c).toNat / 10) + lowSum a m (flag p .c).toNat % 10) =
      16 * highSum a m (flag p .c).toNat + lowSum a m (flag p .c).toNat % 10 := by
    rw [highSum]
    omega
  have hdigit := Nat.mod_lt (lowSum a m (flag p .c).toNat) (by decide : 10 > 0)
  simp only [adcDecimal, toNat_and_f0, BitVec.toNat_ofNat, flag_setFlag, if_true, decide_eq_true_eq, hlow,
    lowSum_corrected (lowSum_le ha hm hc), hsum, sum_corrected (highSum_le ha hm hc) hdigit, sum_carries_iff hdigit,
    digitSum, and_true]
  omega

/-- On decimal digits the corrected difference is the digit sum with the nine's complement. -/
theorem sbcDecimal_digits (ha : isBcd a) (hm : isBcd m) :
    (sbcDecimal a m p).1.toNat = digitSum a (ninesComplement m) (flag p .c).toNat := by
  have hc := Bool.toNat_le (flag p .c)
  have hm' := isBcd_ninesComplement hm
  obtain ⟨hhigh, hlow⟩ := ninesComplement_digits hm
  obtain ⟨hm1, hm0⟩ := hm
  have hlowDiff : ((a.toNat % 16 : Nat) : Int) - (m.toNat % 16 : Nat) + (flag p .c).toNat - 1 =
      lowSum a (ninesComplement m) (flag p .c).toNat - 10 := by
    rw [lowSum, hlow]
    omega
  have hdiff : ((16 * (a.toNat / 16) : Nat) : Int) - (16 * (m.toNat / 16) : Nat) +
      (16 * (lowSum a (ninesComplement m) (flag p .c).toNat / 10 : Nat) +
        (lowSum a (ninesComplement m) (flag p .c).toNat % 10 : Nat) - 16) =
      16 * highSum a (ninesComplement m) (flag p .c).toNat +
        (lowSum a (ninesComplement m) (flag p .c).toNat % 10 : Nat) - 160 := by
    rw [highSum, hhigh]
    omega
  have hdigit := Nat.mod_lt (lowSum a (ninesComplement m) (flag p .c).toNat) (by decide : 10 > 0)
  simp only [sbcDecimal, toNat_and_f0, BitVec.toNat_ofInt, hlowDiff, lowDiff_corrected (lowSum_le ha hm' hc), hdiff]
  exact congrArg Int.toNat (diff_corrected (highSum_le ha hm' hc) hdigit)

/-- Decimal addition of decimal digits. -/
theorem adcDecimal_bcd (ha : isBcd a) (hm : isBcd m) :
    isBcd (adcDecimal a m p).1 ∧
      bcdValue (adcDecimal a m p).1 = (bcdValue a + bcdValue m + (flag p .c).toNat) % 100 ∧
      (flag (adcDecimal a m p).2 .c = true ↔ 100 ≤ bcdValue a + bcdValue m + (flag p .c).toNat) := by
  obtain ⟨hval, hcarry⟩ := adcDecimal_digits (p := p) ha hm
  obtain ⟨hbcd, hspell⟩ := bcd_of_digitSum hval
  refine ⟨hbcd, hspell, ?_⟩
  rw [hcarry, bcdValue_add_eq]
  omega

/-- Decimal subtraction of decimal digits. -/
theorem sbcDecimal_bcd (ha : isBcd a) (hm : isBcd m) :
    isBcd (sbcDecimal a m p).1 ∧
      bcdValue (sbcDecimal a m p).1 = (bcdValue a + 99 - bcdValue m + (flag p .c).toNat) % 100 := by
  obtain ⟨hbcd, hspell⟩ := bcd_of_digitSum (sbcDecimal_digits (p := p) ha hm)
  have hle : bcdValue m ≤ 99 := by
    obtain ⟨hm1, hm0⟩ := hm
    rw [bcdValue]
    omega
  rw [bcdValue_ninesComplement hm, ← Nat.add_sub_assoc hle] at hspell
  exact ⟨hbcd, hspell⟩

end

/-- Z is the binary sum's in decimal mode too. -/
theorem zero_adcDecimal (a m p : Byte) :
    flag (adcDecimal a m p).2 .z = decide ((a.toNat + m.toNat + (flag p .c).toNat) % 256 = 0) := by
  simp [adcDecimal, ofNat_eq_zero_iff]

/-- The flags of a decimal subtraction are the binary one's. -/
theorem sbcDecimal_flags (a m p : Byte) : (sbcDecimal a m p).2 = (addWithCarry a (m ^^^ 0xFF) p).2 := rfl

/-! ## Which of the two (R505, R506) -/

theorem adcResult_binary {d : Bool} {p : Byte} (h : d = false ∨ flag p .d = false) (a m : Byte) :
    adcResult d a m p = addWithCarry a m p := if_neg (ne_true_of_eq_false (Bool.and_eq_false_iff.mpr h))

theorem sbcResult_binary {d : Bool} {p : Byte} (h : d = false ∨ flag p .d = false) (a m : Byte) :
    sbcResult d a m p = addWithCarry a (m ^^^ 0xFF) p := if_neg (ne_true_of_eq_false (Bool.and_eq_false_iff.mpr h))

theorem adcResult_decimal {d : Bool} {p : Byte} (hd : d = true) (hp : flag p .d = true) (a m : Byte) :
    adcResult d a m p = adcDecimal a m p := if_pos (Bool.and_eq_true_iff.mpr ⟨hd, hp⟩)

theorem sbcResult_decimal {d : Bool} {p : Byte} (hd : d = true) (hp : flag p .d = true) (a m : Byte) :
    sbcResult d a m p = sbcDecimal a m p := if_pos (Bool.and_eq_true_iff.mpr ⟨hd, hp⟩)

/-! ## The instructions and their frame -/

theorem keepsRegs_of_ap {s t : State} {v p : Byte} (h : t.regs = { s.regs with a := v, p := p }) :
    keepsRegs s t [.a, .p] := by
  intro r hr
  rw [h]
  cases r <;> simp_all [Regs.get]

theorem keepsRegs_of_p {s t : State} {p : Byte} (h : t.regs = { s.regs with p := p }) : keepsRegs s t [.p] := by
  intro r hr
  rw [h]
  exact (Regs.get_fill [.p] p s.regs r).trans (if_neg hr)

@[simp] theorem State.setAP_a (s : State) (r : Byte × Byte) : (s.setAP r).regs.a = r.1 := rfl

@[simp] theorem State.setAP_p (s : State) (r : Byte × Byte) : (s.setAP r).regs.p = r.2 := rfl

/-- After an operand read, a result put into A and P leaves the other registers, PC and every byte, and the rest as the read
leaves it. -/
theorem readOperand_setAP_frame (o : Operand) (s : State) (r : Byte × Byte) :
    let t := (s.readOperand o).2.setAP r
    keepsRegs s t [.a, .p] ∧ t.regs.pc = s.regs.pc ∧ sameOutsideRegs (s.readOperand o).2 t ∧ keepsBytes s t [] := by
  have hregs : ((s.readOperand o).2.setAP r).regs = { s.regs with a := r.1, p := r.2 } := by
    rw [← State.readOperand_regs o s]
    rfl
  exact ⟨keepsRegs_of_ap hregs, (congrArg Regs.pc hregs).trans rfl, rfl, fun l _ => State.readOperand_readLoc o s l⟩

/-- After an operand read, a new status word leaves the other registers, PC and every byte, and the rest as the read leaves
it. -/
theorem readOperand_setP_frame (o : Operand) (s : State) (p : Byte) :
    let t := (s.readOperand o).2.setP p
    keepsRegs s t [.p] ∧ t.regs.pc = s.regs.pc ∧ sameOutsideRegs (s.readOperand o).2 t ∧ keepsBytes s t [] := by
  have hregs : ((s.readOperand o).2.setP p).regs = { s.regs with p := p } := by
    rw [← State.readOperand_regs o s]
    rfl
  exact ⟨keepsRegs_of_p hregs, (congrArg Regs.pc hregs).trans rfl, rfl, fun l _ => State.readOperand_readLoc o s l⟩

theorem exec_adc (o : Operand) (s : State) : exec (.adc o) s = .next ((s.readOperand o).2.setAP
    (adcResult s.params.decimalMode s.regs.a (s.readOperand o).1 s.regs.p)) := by
  rw [← State.readOperand_regs o s]
  rfl

theorem exec_sbc (o : Operand) (s : State) : exec (.sbc o) s = .next ((s.readOperand o).2.setAP
    (sbcResult s.params.decimalMode s.regs.a (s.readOperand o).1 s.regs.p)) := by
  rw [← State.readOperand_regs o s]
  rfl

/-- $EB does what SBC immediate does (R704). -/
theorem exec_sbcUnofficial (v : Byte) (s : State) : exec (.sbcUnofficial v) s = exec (.sbc (.imm v)) s := rfl

/-- What SBC of an operand does, $EB does when the operand is immediate (R704). -/
theorem exec_sbcUnofficial_of_sbc {o : Operand} {s : State} {r : Result} (h : exec (.sbc o) s = r) :
    ∀ v, o = .imm v → exec (.sbcUnofficial v) s = r := by
  rintro v rfl
  exact (exec_sbcUnofficial v s).trans h

/-- Settles O10: the result is `addWithCarry`, and the frame that of an operand read and a result in A and P. -/
theorem adcAddsInBinary : Obligations.AdcAddsInBinary := by
  intro o s hbin a m c
  have hexec := exec_adc o s
  rw [adcResult_binary hbin] at hexec
  refine ⟨_, hexec, ?_⟩
  simp only [State.setAP_a, State.setAP_p]
  exact ⟨toNat_addWithCarry a m _, carry_addWithCarry a m _, overflow_addWithCarry a m _, showsNZ_addWithCarry a m _,
    keepsFlags_addWithCarry a m _, readOperand_setAP_frame o s _⟩

/-- Settles O11: the result is `addWithCarry` of the operand's complement. -/
theorem sbcSubtractsInBinary : Obligations.SbcSubtractsInBinary := by
  intro o s hbin a m c
  have hexec := exec_sbc o s
  rw [sbcResult_binary hbin] at hexec
  refine ⟨_, hexec, ?_⟩
  simp only [State.setAP_a, State.setAP_p]
  obtain ⟨hregs, hpc, hout, hbytes⟩ := readOperand_setAP_frame o s (addWithCarry a (m ^^^ 0xFF) s.regs.p)
  exact ⟨toNat_addWithCarry_xor a m _, carry_addWithCarry_xor a m _, overflow_addWithCarry_xor a m _,
    showsNZ_addWithCarry a _ _, keepsFlags_addWithCarry a _ _, hregs, hpc, hout, hbytes, exec_sbcUnofficial_of_sbc hexec⟩

/-- Settles O12: the results are `adcDecimal` and `sbcDecimal`, whose digits on decimal digits are `adcDecimal_bcd` and
`sbcDecimal_bcd`. -/
theorem decimalModeCountsInDecimal : Obligations.DecimalModeCountsInDecimal := by
  intro o s hmode hd a m c
  refine ⟨?adc, ?sbc⟩
  case adc =>
    have hexec := exec_adc o s
    rw [adcResult_decimal hmode hd] at hexec
    refine ⟨_, hexec, ?_⟩
    simp only [State.setAP_a, State.setAP_p]
    exact ⟨zero_adcDecimal a m _, adcDecimal_bcd, keepsFlags_adcDecimal a m _, readOperand_setAP_frame o s _⟩
  case sbc =>
    have hexec := exec_sbc o s
    rw [sbcResult_decimal hmode hd] at hexec
    refine ⟨_, hexec, ?_⟩
    simp only [State.setAP_a, State.setAP_p, sbcDecimal_flags]
    obtain ⟨hregs, hpc, hout, hbytes⟩ := readOperand_setAP_frame o s (sbcDecimal a m s.regs.p)
    exact ⟨zero_addWithCarry_xor a m _, carry_addWithCarry_xor a m _, sbcDecimal_bcd, keepsFlags_addWithCarry a _ _,
      hregs, hpc, hout, hbytes, exec_sbcUnofficial_of_sbc hexec⟩

/-! ## Comparisons and BIT (R501, R510 to R513) -/

/-- An instruction that is `compareWith` of a register compares it. -/
theorem comparesTo_of_exec {i : Instr} {o : Operand} {s : State} {reg : Byte}
    (h : exec i s = .next (s.compareWith reg o)) : comparesTo i o s reg := by
  have heq : s.compareWith reg o = (s.readOperand o).2.setP (compareP reg (s.readOperand o).1 s.regs.p) := by
    rw [← State.readOperand_regs o s]
    rfl
  have hzero : decide (reg - (s.readOperand o).1 = 0) = decide (reg = (s.readOperand o).1) :=
    decide_eq_decide.mpr sub_eq_zero
  rw [heq] at h
  exact ⟨_, h, flag_compareP _ _ _ .c, (flag_compareP _ _ _ .z).trans hzero, flag_compareP _ _ _ .n,
    ((keepsFlags.refl _ _).setFlag (by decide) _).setNZ (by decide) (by decide) _, readOperand_setP_frame o s _⟩

theorem exec_bit (o : Operand) (s : State) : exec (.bit o) s =
    .next ((s.readOperand o).2.setP (bitP s.regs.a (s.readOperand o).1 s.regs.p)) := by
  rw [← State.readOperand_regs o s]
  rfl

/-- Settles O13: the three comparisons by `comparesTo_of_exec`, BIT by the flags of `bitP`. -/
theorem comparesAndBitWriteFlagsAlone : Obligations.ComparesAndBitWriteFlagsAlone := fun o s =>
  ⟨comparesTo_of_exec rfl, comparesTo_of_exec rfl, comparesTo_of_exec rfl,
    _, exec_bit o s, flag_bitP _ _ _ .n, flag_bitP _ _ _ .v, flag_bitP _ _ _ .z,
    (((keepsFlags.refl _ _).setFlag (by decide) _).setFlag (by decide) _).setFlag (by decide) _,
    readOperand_setP_frame o s _⟩

end Sys2Proof.Machine
end

section
/-! Read-modify-write (R412, R421, R503, R514, R515, R560 to R564): each modify function is a new byte and a carry, both
functions of the old byte, and an instruction that applies one to its operand rewrites it. -/

namespace Sys2Proof.Machine

/-! ## The modify functions as a new byte and a carry -/

/-- The modify function `f` gives the byte `new` says and writes C, as `carry` says of the old byte, and no other flag. -/
def modifiesAs (f : Byte → Byte → Byte × Byte) (p : Byte) (new : Byte → Byte) (carry : Byte → Bool) : Prop :=
  ∀ v, f v p = (new v, setFlag p .c (carry v))

/-- Writing a flag with its own value changes nothing. -/
theorem setFlag_flag (p : Byte) (f : Flag) : setFlag p f (flag p f) = p :=
  flag_ext fun g => (flag_setFlag p f g _).trans (ite_eq_right_iff.mpr fun h => h ▸ rfl)

theorem getLsbD_zero (b : Byte) : b.getLsbD 0 = decide (b.toNat % 2 = 1) := by
  rw [BitVec.getLsbD, Nat.testBit_zero]

theorem shiftLeft_one : ∀ v : Byte, v <<< 1 = BitVec.ofNat 8 (v.toNat * 2) := by decide

theorem shiftRight_one : ∀ v : Byte, v >>> 1 = BitVec.ofNat 8 (v.toNat / 2) := by decide

theorem shiftLeft_one_or : ∀ (v : Byte) (c : Bool),
    v <<< 1 ||| (if c then 0x01 else 0) = BitVec.ofNat 8 (v.toNat * 2 + c.toNat) := by decide

theorem shiftRight_one_or : ∀ (v : Byte) (c : Bool),
    v >>> 1 ||| (if c then 0x80 else 0) = BitVec.ofNat 8 (v.toNat / 2 + 128 * c.toNat) := by decide

section
variable (p : Byte)

theorem modifiesAs_increment : modifiesAs increment p (fun v => BitVec.ofNat 8 (v.toNat + 1)) (fun _ => flag p .c) :=
  fun _ => Prod.ext rfl (setFlag_flag p .c).symm

theorem modifiesAs_decrement : modifiesAs decrement p (fun v => BitVec.ofNat 8 (v.toNat + 255)) (fun _ => flag p .c) :=
  fun v => Prod.ext (sub_one_eq_ofNat v) (setFlag_flag p .c).symm

theorem modifiesAs_shiftLeft :
    modifiesAs shiftLeft p (fun v => BitVec.ofNat 8 (v.toNat * 2)) (fun v => decide (128 ≤ v.toNat)) :=
  fun v => Prod.ext (shiftLeft_one v) (congrArg (setFlag p .c) (getLsbD_seven v))

theorem modifiesAs_shiftRight :
    modifiesAs shiftRight p (fun v => BitVec.ofNat 8 (v.toNat / 2)) (fun v => decide (v.toNat % 2 = 1)) :=
  fun v => Prod.ext (shiftRight_one v) (congrArg (setFlag p .c) (getLsbD_zero v))

theorem modifiesAs_rotateLeft : modifiesAs rotateLeft p
    (fun v => BitVec.ofNat 8 (v.toNat * 2 + (flag p .c).toNat)) (fun v => decide (128 ≤ v.toNat)) :=
  fun v => Prod.ext (shiftLeft_one_or v _) (congrArg (setFlag p .c) (getLsbD_seven v))

theorem modifiesAs_rotateRight : modifiesAs rotateRight p
    (fun v => BitVec.ofNat 8 (v.toNat / 2 + 128 * (flag p .c).toNat)) (fun v => decide (v.toNat % 2 = 1)) :=
  fun v => Prod.ext (shiftRight_one_or v _) (congrArg (setFlag p .c) (getLsbD_zero v))

end

/-! ## Rewriting an operand -/

/-- An operand of a form that is not the immediate one is A or names memory. -/
theorem State.acc_or_namesMemory_of_form {o : Operand} {forms : List Mode} (h : forms.contains o.mode = true)
    (himm : .imm ∉ forms := by decide) : o = .acc ∨ State.namesMemory o = true := by
  refine or_iff_not_imp_left.mpr fun hacc => State.namesMemory_of_ne hacc fun v => ?_
  rintro rfl
  exact himm (List.contains_iff_mem.mp h)

/-- An instruction that applies a modify function to A or memory, with N and Z, rewrites its operand. -/
theorem rewritesTo_of_exec {i : Instr} {o : Operand} {s : State} {f : Byte → Byte → Byte × Byte} {new : Byte → Byte}
    {carry : Byte → Bool} (hf : modifiesAs f s.regs.p new carry) (ho : o = .acc ∨ State.namesMemory o = true)
    (h : exec i s = .next (s.modifyOperand o (withNZ f)).2) :
    rewritesTo i o s new carry := by
  have hmod (v : Byte) : withNZ f v s.regs.p = (new v, setNZ (setFlag s.regs.p .c (carry v)) (new v)) := by
    rw [withNZ, hf v]
  have hkeeps (v w : Byte) : keepsFlags s.regs.p (setNZ (setFlag s.regs.p .c (carry v)) w) [.c, .n, .z] :=
    ((keepsFlags.refl _ _).setFlag (by decide) _).setNZ (by decide) (by decide) _
  have hcarry (v w : Byte) : flag (setNZ (setFlag s.regs.p .c (carry v)) w) .c = carry v := by simp
  obtain rfl | hmem := ho
  case inl =>
    have heq : (s.modifyOperand .acc (withNZ f)).2 = s.setAP (withNZ f s.regs.a s.regs.p) := rfl
    rw [heq, hmod] at h
    exact ⟨_, h, rfl, hkeeps _ _, fun _ => ⟨rfl, showsNZ_setNZ _ _, hcarry _ _, keepsRegs_of_ap rfl, rfl⟩,
      fun hne => absurd rfl hne⟩
  case inr =>
    have hacc : o ≠ .acc := by
      rintro rfl
      cases hmem
    have hcycles := State.modifyOperand_cycles hmem (withNZ f) s
    rw [State.modifyOperand_rewritten o hmem, hmod] at h hcycles
    exact ⟨_, h, rfl, hkeeps _ _, fun e => absurd e hacc, fun _ => ⟨showsNZ_setNZ _ _, hcarry _ _, keepsRegs_of_p rfl,
      hcycles, rfl, State.rewritten_keepsBytes o s _, fun l hl => State.rewritten_stores o s _ hl⟩⟩

/-- Settles O14: each instruction applies its modify function, `rewritesTo_of_exec`. -/
theorem modifiesRewriteTheirOperand : Obligations.ModifiesRewriteTheirOperand := by
  intro o s c same top low
  refine ⟨fun h => ?counts, fun h => ?shifts⟩
  case counts =>
    have ho : o = .acc ∨ State.namesMemory o = true := .inr (State.namesMemory_of_form h)
    exact ⟨rewritesTo_of_exec (modifiesAs_increment _) ho rfl, rewritesTo_of_exec (modifiesAs_decrement _) ho rfl⟩
  case shifts =>
    have ho := State.acc_or_namesMemory_of_form h
    exact ⟨rewritesTo_of_exec (modifiesAs_shiftLeft _) ho rfl, rewritesTo_of_exec (modifiesAs_shiftRight _) ho rfl,
      rewritesTo_of_exec (modifiesAs_rotateLeft _) ho rfl, rewritesTo_of_exec (modifiesAs_rotateRight _) ho rfl⟩

end Sys2Proof.Machine
end

section
/-! The stack (R430, R431): what a push of a byte or a word writes, keeps and leaves in SP, and which bytes a pull reads. -/

namespace Sys2Proof.Machine

/-- The bytes one change keeps and another keeps after it. -/
theorem keepsBytes.trans {s t u : State} {l m : List (Option Loc)} (h : keepsBytes s t l) (k : keepsBytes t u m) :
    keepsBytes s u (l ++ m) := fun a ha =>
  have ⟨hl, hm⟩ := not_or.mp (mt List.mem_append.mpr ha)
  (k a hm).trans (h a hl)

/-! ## Registers kept when SP, P or PC is written -/

theorem keepsRegs_of_pc {s t : State} {w : Addr} (h : t.regs = { s.regs with pc := w }) : keepsRegs s t [] := by
  intro r _
  rw [h]
  cases r <;> rfl

theorem keepsRegs_of_sp {s t : State} {v : Byte} {w : Addr} (h : t.regs = { s.regs with sp := v, pc := w }) :
    keepsRegs s t [.sp] := by
  intro r hr
  rw [h]
  cases r
  case sp => simp at hr
  all_goals rfl

theorem keepsRegs_of_sp_p {s t : State} {v p : Byte} {w : Addr} (h : t.regs = { s.regs with sp := v, p := p, pc := w }) :
    keepsRegs s t [.sp, .p] := by
  intro r hr
  rw [h]
  cases r
  case sp | p => simp at hr
  all_goals rfl

namespace State

/-! ## Pushes -/

theorem stackLoc_inj {a b : Byte} : stackLoc a = stackLoc b ↔ a = b := by
  simp [stackLoc, BitVec.toNat_inj]

/-- A write to page one reaches the stack byte. -/
theorem storeLoc_stackAddr (s : State) (sp : Byte) : s.storeLoc (stackAddr sp) = some (stackLoc sp) := by
  have h : (stackAddr sp).toNat ≤ 0x1FFF := by rw [stackAddr_toNat]; omega
  rw [storeLoc, if_pos h, stackAddr_toNat, Nat.mod_eq_of_lt (by omega)]
  rfl

theorem push_keepsBytes (s : State) (v : Byte) : keepsBytes s (s.push v) [some (stackLoc s.regs.sp)] := by
  have h := memWrite_keepsBytes s (stackAddr s.regs.sp) v
  rwa [storeLoc_stackAddr] at h

theorem push_stores (s : State) (v : Byte) : (s.push v).readLoc (stackLoc s.regs.sp) = v :=
  memWrite_stores s _ v (s.storeLoc_stackAddr _)

/-- A push keeps the stack byte of any other stack pointer. -/
theorem push_keeps_stackLoc (s : State) (v : Byte) {sp : Byte} (h : sp ≠ s.regs.sp) :
    (s.push v).readLoc (stackLoc sp) = s.readLoc (stackLoc sp) :=
  s.push_keepsBytes v _ (by simpa [stackLoc_inj] using h)

@[simp] theorem push_regs (s : State) (v : Byte) : (s.push v).regs = { s.regs with sp := s.regs.sp - 1 } := by
  rw [push_eq]
  rfl

/-- A word pushed: two bytes of page one, the high one above the low one (R430). -/
theorem pushWord_eq (s : State) (w : Addr) :
    s.pushWord w = (((s.setOpenBus (loByte w)).setRam (0x100 + s.regs.sp.toNat) (hiByte w)).setRam
      (0x100 + (s.regs.sp - 1).toNat) (loByte w)).setSp (s.regs.sp - 2) := by
  have hsp : s.regs.sp - 1 - 1 = s.regs.sp - 2 := by bv_omega
  rw [pushWord, push_eq, push_eq, ← hsp]
  rfl

@[simp] theorem pushWord_regs (s : State) (w : Addr) : (s.pushWord w).regs = { s.regs with sp := s.regs.sp - 2 } := by
  rw [pushWord_eq]
  rfl

/-- A push neither looks at PC nor changes it. -/
theorem pushWord_setPc (s : State) (w v : Addr) : (s.setPc v).pushWord w = (s.pushWord w).setPc v := by
  rw [pushWord_eq, pushWord_eq]
  rfl

/-- `u` is `s` with the word `w` pushed and no other byte, register or cycle changed. -/
structure PushedWord (s u : State) (w : Addr) : Prop where
  hi : u.readLoc (stackLoc s.regs.sp) = hiByte w
  lo : u.readLoc (stackLoc (s.regs.sp - 1)) = loByte w
  regs : u.regs = { s.regs with sp := s.regs.sp - 2 }
  cycles : u.cycles = s.cycles
  bytes : keepsBytes s u [some (stackLoc s.regs.sp), some (stackLoc (s.regs.sp - 1))]

theorem pushedWord_pushWord (s : State) (w : Addr) : PushedWord s (s.pushWord w) w where
  hi := by
    have hne : s.regs.sp ≠ (s.push (hiByte w)).regs.sp := by rw [push_regs]; bv_omega
    exact (push_keeps_stackLoc _ _ hne).trans (s.push_stores _)
  lo := by
    have h := (s.push (hiByte w)).push_stores (loByte w)
    rwa [push_regs] at h
  regs := s.pushWord_regs w
  cycles := by rw [pushWord_eq]; rfl
  bytes := by
    have h := (s.push_keepsBytes (hiByte w)).trans ((s.push (hiByte w)).push_keepsBytes (loByte w))
    rwa [push_regs] at h

/-- A bus read after the push changes none of it. -/
theorem PushedWord.memRead {s u : State} {w : Addr} (h : PushedWord s u w) (a : Addr) : PushedWord s (u.memRead a).2 w where
  hi := (u.memRead_readLoc a _).trans h.hi
  lo := (u.memRead_readLoc a _).trans h.lo
  regs := (u.memRead_regs a).trans h.regs
  cycles := (u.memRead_cycles a).trans h.cycles
  bytes := fun l hl => (u.memRead_readLoc a l).trans (h.bytes l hl)

/-- Nor does a bus read before it. -/
theorem PushedWord.of_memRead {s u : State} {w a : Addr} (h : PushedWord (s.memRead a).2 u w) : PushedWord s u w := by
  obtain ⟨hi, lo, regs, cycles, bytes⟩ := h
  rw [memRead_regs] at hi lo regs bytes
  exact ⟨hi, lo, regs, cycles.trans (s.memRead_cycles a), fun l hl => (bytes l hl).trans (s.memRead_readLoc a l)⟩

/-- A jump after the push leaves SP alone changed of the 8-bit registers. -/
theorem PushedWord.setPc_keepsRegs {s u : State} {w : Addr} (h : PushedWord s u w) (v : Addr) :
    keepsRegs s (u.setPc v) [.sp] :=
  keepsRegs_of_sp (v := s.regs.sp - 2) (w := v) (by rw [setPc_regs, h.regs])

/-! ## Pulls -/

/-- The stack byte `n` places above SP, round the page: the `n`th byte that pulls read. -/
def stacked (s : State) (n : Nat) : Byte := s.ramByte (0x100 + (s.regs.sp.toNat + n) % 256)

/-- It is the stack byte of the stack pointer `n` higher. -/
theorem stacked_eq_readLoc {s : State} {n : Nat} {sp : Byte} (h : s.regs.sp + BitVec.ofNat 8 n = sp) :
    s.stacked n = s.readLoc (stackLoc sp) := by
  rw [← h, stackLoc, BitVec.toNat_add, BitVec.toNat_ofNat, Nat.add_mod_mod]
  rfl

theorem pull_eq_stacked (s : State) :
    s.pull = (s.stacked 1, (s.setSp (s.regs.sp + 1)).setOpenBus (s.stacked 1)) := by
  rw [pull_eq, stacked_eq_readLoc rfl]
  rfl

/-- With SP one higher, every stack byte is one place nearer. -/
theorem stacked_setSp_add_one (s : State) (n : Nat) : (s.setSp (s.regs.sp + 1)).stacked n = s.stacked (n + 1) := by
  have hplace : ((s.regs.sp + 1).toNat + n) % 256 = (s.regs.sp.toNat + (n + 1)) % 256 := by
    rw [BitVec.toNat_add, Nat.mod_add_mod, Nat.add_assoc, Nat.add_comm n]
    rfl
  exact congrArg (fun i => s.ramByte (0x100 + i)) hplace

/-- A word pulled: low byte first (R430). -/
theorem pullWord_eq (s : State) :
    s.pullWord = (join (s.stacked 2) (s.stacked 1), (s.setSp (s.regs.sp + 2)).setOpenBus (s.stacked 2)) := by
  have hsp : s.regs.sp + 1 + 1 = s.regs.sp + 2 := by bv_omega
  have hnext : s.pull.2.stacked 1 = s.stacked 2 := by
    rw [pull_eq_stacked]
    exact s.stacked_setSp_add_one 1
  rw [pullWord, pull_eq_stacked s.pull.2, hnext, pull_eq_stacked, ← hsp]
  rfl

end State

end Sys2Proof.Machine
end

section
/-! Taking an exception (R640, R800, R820 to R824): the frame saved, the vector selected, the handler entered. -/

namespace Sys2Proof.Machine

namespace State

/-! ## The frame -/

/-- The frame: PC pushed as a word, then P; every other byte is kept (R820, R640). -/
theorem saveFrame_bytes (k : ExcKind) (s : State) :
    (s.saveFrame k).readLoc (stackLoc s.regs.sp) = hiByte s.regs.pc ∧
    (s.saveFrame k).readLoc (stackLoc (s.regs.sp - 1)) = loByte s.regs.pc ∧
    (s.saveFrame k).readLoc (stackLoc (s.regs.sp - 2)) = pushedP s.regs.p (k == .brk) ∧
    keepsBytes s (s.saveFrame k)
      [some (stackLoc s.regs.sp), some (stackLoc (s.regs.sp - 1)), some (stackLoc (s.regs.sp - 2))] := by
  have hw := s.pushedWord_pushWord s.regs.pc
  have hsp : (s.pushWord s.regs.pc).regs.sp = s.regs.sp - 2 := congrArg Regs.sp hw.regs
  have hkeep {sp : Byte} (h : sp ≠ s.regs.sp - 2) :
      (s.saveFrame k).readLoc (stackLoc sp) = (s.pushWord s.regs.pc).readLoc (stackLoc sp) :=
    push_keeps_stackLoc _ _ (hsp ▸ h)
  have hstore := (s.pushWord s.regs.pc).push_stores (pushedP s.regs.p (k == .brk))
  have hbytes := hw.bytes.trans ((s.pushWord s.regs.pc).push_keepsBytes (pushedP s.regs.p (k == .brk)))
  rw [hsp] at hstore hbytes
  exact ⟨(hkeep (by bv_omega)).trans hw.hi, (hkeep (by bv_omega)).trans hw.lo, hstore, hbytes⟩

/-! ## The vector -/

/-- A 16-bit read of program space: the high byte stays on the open bus (R18, R215, R217). -/
theorem read16_program (s : State) {a : Addr} (h : 0x8000 ≤ a.toNat) (h' : a.toNat < 0xFFFF) :
    s.read16 a = (join (s.prgRead (a.toNat + 1)) (s.prgRead a.toNat), s.setOpenBus (s.prgRead (a.toNat + 1))) := by
  have hread (u : State) {b : Addr} (hb : 0x8000 ≤ b.toNat) :
      u.memRead b = (u.prgRead b.toNat, u.setOpenBus (u.prgRead b.toNat)) := by
    unfold memRead busRead
    rw [if_neg (by omega), if_neg (by omega), if_neg (by omega), if_neg (by omega), if_neg (by omega)]
  have hnext : (a + 1).toNat = a.toNat + 1 := by bv_omega
  rw [read16, hread s h, hread _ (by omega), hnext]
  rfl

/-- The state with other NMI latches (R122). -/
def withNmi (pending ahead : Bool) (s : State) : State := { s with nmiPending := pending, nmiConsumedAhead := ahead }

/-- An asserted NMI takes the vector over (R823). -/
theorem selectVector_pending {s : State} (h : s.nmiPending = true) :
    s.selectVector = (nmiVector, s.withNmi false s.nmiConsumedAhead) := if_pos h

/-- So does an NMI that will be asserted within the window (R824). -/
theorem selectVector_edge {s : State} (h : s.nmiPending = false) (he : s.nmiEdgeWithin s.params.hijackWindow = true) :
    s.selectVector = (nmiVector, s.withNmi false true) := by
  rw [selectVector, if_neg (ne_true_of_eq_false h), if_pos he, withNmi, ← h]

/-- Without either, the vector is the event's own (R821). -/
theorem selectVector_own {s : State} (h : s.nmiPending = false) (he : s.nmiEdgeWithin s.params.hijackWindow = false) :
    s.selectVector = (irqVector, s.withNmi false s.nmiConsumedAhead) := by
  rw [selectVector, if_neg (ne_true_of_eq_false h), if_neg (ne_true_of_eq_false he), withNmi, ← h]

@[simp] theorem selectVector_cycles (s : State) : s.selectVector.2.cycles = s.cycles := by
  unfold selectVector
  split
  · rfl
  · split <;> rfl

/-! ## The handler -/

/-- The end of every sequence: PC from the vector, the cycles, no poll before the handler's first instruction. -/
def enterAt (vector : Addr) (n : Nat) (s : State) : State :=
  { ((s.read16 vector).2.setPc (s.read16 vector).1).addCycles n with noPollOnce := true }

@[simp] theorem enterAt_cycles (vector : Addr) (n : Nat) (s : State) : (s.enterAt vector n).cycles = s.cycles + n := by
  simp [enterAt, read16]

/-- BRK saves its frame, then enters at the vector selected; its cycles are its base cost (R640). -/
theorem takeException_brk (s : State) :
    s.takeException .brk = (s.saveFrame .brk).selectVector.2.enterAt (s.saveFrame .brk).selectVector.1 0 := rfl

/-- A saved frame and an entry through a vector in program space enter the handler, whatever the NMI latches are made. -/
theorem entersHandler_enterAt (k : ExcKind) (s : State) (pending ahead : Bool) (n : Nat) {vector : Addr}
    (h : 0x8000 ≤ vector.toNat) (h' : vector.toNat < 0xFFFF) :
    entersHandler s (((s.saveFrame k).withNmi pending ahead).enterAt vector n) (k == .brk) vector := by
  obtain ⟨hi, lo, p, bytes⟩ := s.saveFrame_bytes k
  have hread := read16_program ((s.saveFrame k).withNmi pending ahead) h h'
  have hregs : (((s.saveFrame k).withNmi pending ahead).enterAt vector n).regs =
      { s.regs with
        sp := s.regs.sp - 3, p := setFlag s.regs.p .i true
        pc := join (s.prgRead (vector.toNat + 1)) (s.prgRead vector.toNat) } := by
    rw [enterAt, hread, saveFrame_eq]
    rfl
  have hloc (l : Loc) : (((s.saveFrame k).withNmi pending ahead).enterAt vector n).readLoc l = (s.saveFrame k).readLoc l := by
    rw [enterAt, hread]
    cases l <;> rfl
  refine ⟨(hloc _).trans hi, (hloc _).trans lo, (hloc _).trans p, fun l hl => (hloc l).trans (bytes l hl),
    congrArg Regs.sp hregs, ?_, ?_, keepsRegs_of_sp_p hregs, congrArg Regs.pc hregs, rfl, ?_⟩
  · rw [hregs]
    exact flag_setFlag _ _ _ _
  · rw [hregs]
    exact (keepsFlags.refl _ _).setFlag (List.mem_singleton_self _) true
  · rw [enterAt, hread, saveFrame_eq]
    rfl

/-- An event that saves its frame and enters at the vector selected after it enters the handler R821 gives: saving the frame
changes nothing the choice looks at. -/
theorem entersSelected_selectVector (k : ExcKind) (s : State) (n : Nat) :
    entersSelected s ((s.saveFrame k).selectVector.2.enterAt (s.saveFrame k).selectVector.1 n) (k == .brk) := by
  have hnmi : (s.saveFrame k).nmiPending = s.nmiPending := by rw [saveFrame_eq]
  have hahead : (s.saveFrame k).nmiConsumedAhead = s.nmiConsumedAhead := by rw [saveFrame_eq]
  have hedge : (s.saveFrame k).nmiEdgeWithin (s.saveFrame k).params.hijackWindow =
      s.nmiEdgeWithin s.params.hijackWindow := by rw [saveFrame_eq]; rfl
  have hlatches (v : Addr) (b c : Bool) : (((s.saveFrame k).withNmi b c).enterAt v n).nmiPending = b ∧
      (((s.saveFrame k).withNmi b c).enterAt v n).nmiConsumedAhead = c := by
    simp [enterAt, read16, withNmi]
  refine ⟨fun h => ?pending, fun h he => ?edge, fun h he => ?own⟩
  case pending =>
    rw [selectVector_pending (hnmi.trans h), hahead]
    exact ⟨entersHandler_enterAt k s _ _ n (vector := nmiVector) (by decide) (by decide), hlatches _ _ _⟩
  case edge =>
    rw [selectVector_edge (hnmi.trans h) (hedge.trans he)]
    exact ⟨entersHandler_enterAt k s _ _ n (vector := nmiVector) (by decide) (by decide), hlatches _ _ _⟩
  case own =>
    rw [selectVector_own (hnmi.trans h) (hedge.trans he), hahead]
    exact ⟨entersHandler_enterAt k s _ _ n (vector := irqVector) (by decide) (by decide), hlatches _ _ _⟩

end State

/-- Whichever vector is selected, a handler is entered. -/
theorem entersHandler_of_entersSelected {s t : State} {b : Bool} (h : entersSelected s t b) :
    ∃ vector, entersHandler s t b vector := by
  obtain ⟨pending, edge, own⟩ := h
  cases hn : s.nmiPending
  case true => exact ⟨_, (pending hn).1⟩
  case false =>
    cases he : s.nmiEdgeWithin s.params.hijackWindow
    case true => exact ⟨_, (edge hn he).1⟩
    case false => exact ⟨_, (own hn he).1⟩

/-- Settles O32: BRK moves PC past the signature and takes the exception, whose vector is selected. -/
theorem brkEntersTheSelectedHandler : Obligations.BrkEntersTheSelectedHandler := by
  intro _ s
  refine ⟨(s.setPc (s.regs.pc + 1)).takeException .brk, rfl, ?_⟩
  rw [State.takeException_brk]
  exact ⟨State.entersSelected_selectVector .brk _ 0, by simp [State.saveFrame_eq]⟩

end Sys2Proof.Machine
end

section
/-! Control flow (R600 to R640): branches, jumps, calls and returns, and that a return undoes a call. -/

namespace Sys2Proof.Machine

/-! ## Branches (R600 to R608) -/

/-- A branch target is PC plus the signed offset, modulo 65536 (R311, R600). -/
theorem toNat_add_sext (w : Addr) (off : Byte) : ((w + sext off).toNat : Int) = (w.toNat + off.toInt) % 65536 := by
  have h : w + sext off = BitVec.ofInt 16 (w.toNat + off.toInt) := by
    rw [BitVec.ofInt_add, BitVec.ofInt_natCast, BitVec.ofNat_toNat, BitVec.setWidth_eq]
    rfl
  rw [h, BitVec.toNat_ofInt]
  omega

/-- The cycles of a taken branch, by the pages of the target and of PC (R600). -/
theorem branchCycles_eq (v w : Addr) :
    (if hiByte v ≠ hiByte w then 2 else 1) = if v.toNat / 256 = w.toNat / 256 then 1 else 2 := by
  simp only [ne_eq, ← BitVec.toNat_inj, toNat_hiByte, ite_not]

/-- An instruction that is `State.branch` on a condition branches on it. -/
theorem branchesIf_of_exec {i : Instr} {s : State} {cond : Bool} {off : Byte} (h : exec i s = .next (s.branch cond off)) :
    branchesIf i s cond off := by
  constructor
  · rintro rfl
    exact h
  · rintro rfl
    exact ⟨_, h, toNat_add_sext s.regs.pc off, congrArg (s.cycles + ·) (branchCycles_eq _ _), keepsRegs_of_pc rfl, rfl⟩

/-- Settles O16: each instruction is `State.branch` on its flag. -/
theorem branchesFollowTheirFlag : Obligations.BranchesFollowTheirFlag := fun _ _ =>
  ⟨branchesIf_of_exec rfl, branchesIf_of_exec rfl, branchesIf_of_exec rfl, branchesIf_of_exec rfl,
    branchesIf_of_exec rfl, branchesIf_of_exec rfl, branchesIf_of_exec rfl, branchesIf_of_exec rfl⟩

/-! ## Jumps (R610, R611, R410) -/

/-- The address of a JMP pointer's second byte (R410). -/
theorem join_hiByte_loByte_add_one (w : Addr) :
    join (hiByte w) (loByte w + 1) = BitVec.ofNat 16 (w.toNat / 256 * 256 + (w.toNat + 1) % 256) := by
  rw [← State.toNat_join_hiByte_loByte_add_one, BitVec.ofNat_toNat, BitVec.setWidth_eq]

/-- Settles O17: the indirect jump by `readIndirect`, two bus reads, which keep registers and bytes. -/
theorem jumpsSetThePc : Obligations.JumpsSetThePc := by
  intro w s
  refine ⟨⟨_, rfl, rfl, keepsRegs_of_pc rfl, rfl⟩, _, rfl, ?_⟩
  rw [← join_hiByte_loByte_add_one]
  have hregs : (s.readIndirect w).2.regs = s.regs := by simp [State.readIndirect]
  refine ⟨⟨toNat_join _ _, rfl⟩, keepsRegs_of_pc (w := (s.readIndirect w).1) ?_, fun l _ => ?_⟩
  · rw [State.setPc_regs, hregs]
  · exact (State.memRead_readLoc _ _ l).trans (s.memRead_readLoc _ l)

/-! ## JSR (R620) -/

theorem exec_jsr_afterPushes {s : State} (h : s.params.jsrHighFetch = .afterPushes) (w : Addr) :
    let late := (s.pushWord s.regs.pc).memRead s.regs.pc
    exec (.jsr w) s = .next (late.2.setPc (join late.1 (loByte w))) := by
  have hpc : (s.pushWord s.regs.pc).regs.pc = s.regs.pc := by rw [State.pushWord_regs]
  change execJsr w s = _
  simp only [execJsr, h, State.fetchByte, hpc]
  rfl

theorem exec_jsr_beforePushes {s : State} (h : s.params.jsrHighFetch = .beforePushes) (w : Addr) :
    let early := s.memRead s.regs.pc
    exec (.jsr w) s = .next ((early.2.pushWord s.regs.pc).setPc (join early.1 (loByte w))) := by
  change execJsr w s = _
  simp only [execJsr, h, State.fetchByte, State.pushWord_setPc]
  rfl

/-- Settles O18: in either order of the fetch, the word is pushed and nothing else written. -/
theorem jsrPushesItsLastByteAddress : Obligations.JsrPushesItsLastByteAddress := by
  intro w s late early
  cases h : s.params.jsrHighFetch
  case afterPushes =>
    have hu : State.PushedWord s late.2 s.regs.pc := (s.pushedWord_pushWord _).memRead _
    refine ⟨_, exec_jsr_afterPushes h w, hu.hi, hu.lo, congrArg Regs.sp hu.regs, fun _ => ⟨rfl, rfl⟩, nofun,
      hu.setPc_keepsRegs _, hu.cycles, hu.bytes⟩
  case beforePushes =>
    have hu : State.PushedWord s (early.2.pushWord s.regs.pc) s.regs.pc := (early.2.pushedWord_pushWord _).of_memRead
    refine ⟨_, exec_jsr_beforePushes h w, hu.hi, hu.lo, congrArg Regs.sp hu.regs, nofun, fun _ => ⟨rfl, rfl⟩,
      hu.setPc_keepsRegs _, hu.cycles, hu.bytes⟩

/-! ## RTS and RTI (R621, R630, R830) -/

theorem exec_rts (s : State) : exec .rts s = .next (((s.setSp (s.regs.sp + 2)).setOpenBus (s.stacked 2)).setPc
    (join (s.stacked 2) (s.stacked 1) + 1)) := by
  change execRts s = _
  rw [execRts, State.pullWord_eq]

theorem exec_rti (s : State) : exec .rti s = .next ((((s.setSp (s.regs.sp + 3)).setP (pulledP (s.stacked 1))).setOpenBus
    (s.stacked 3)).setPc (join (s.stacked 3) (s.stacked 2))) := by
  have hsp : s.regs.sp + 1 + 2 = s.regs.sp + 3 := by bv_omega
  have hnext (n : Nat) : (s.pull.2.setP (pulledP s.pull.1)).stacked n = s.stacked (n + 1) := by
    rw [State.pull_eq_stacked]
    exact s.stacked_setSp_add_one n
  change execRti s = _
  rw [execRti, State.returnFromException, State.pullWord_eq, hnext, hnext, State.pull_eq_stacked, ← hsp]
  rfl

/-- Settles O19: the bytes pulled are those above SP, `exec_rts` and `exec_rti`. -/
theorem returnsPullTheStack : Obligations.ReturnsPullTheStack := by
  intro s byte
  refine ⟨⟨_, exec_rts s, ?_, rfl, keepsRegs_of_sp rfl, rfl⟩,
    _, exec_rti s, toNat_join _ _, rfl, rfl, keepsRegs_of_sp_p rfl, rfl⟩
  rw [State.setPc_regs, BitVec.toNat_add, toNat_join]
  rfl

/-! ## Returns undo calls -/

/-- Registers that agree one by one are the same. -/
theorem Regs.ext_get {g h : Regs} (hget : ∀ r, g.get r = h.get r) (hpc : g.pc = h.pc) : g = h := by
  have ha := hget .a
  have hx := hget .x
  have hy := hget .y
  have hsp := hget .sp
  have hp := hget .p
  cases g
  cases h
  simp_all [Regs.get]

/-- Settles O20: the return pulls the bytes the call pushed. -/
theorem returnsUndoCalls : Obligations.ReturnsUndoCalls := by
  intro w v s
  refine ⟨?rts, fun hp => ?rti⟩
  case rts =>
    obtain ⟨t, ht, hi, lo, hsp, -⟩ := jsrPushesItsLastByteAddress w s
    have h1 : t.stacked 1 = loByte s.regs.pc := (State.stacked_eq_readLoc (by rw [hsp]; bv_omega)).trans lo
    have h2 : t.stacked 2 = hiByte s.regs.pc := (State.stacked_eq_readLoc (by rw [hsp]; bv_omega)).trans hi
    refine ⟨t, _, ht, exec_rts t, ?_, ?_⟩
    · rw [State.setPc_regs, h1, h2, join_hiByte_loByte]
    · change t.regs.sp + 2 = _
      rw [hsp]
      bv_omega
  case rti =>
    obtain ⟨t, ht, hsel, -⟩ := brkEntersTheSelectedHandler v s
    obtain ⟨_, hi, lo, p, -, hsp, -, -, hregs, -⟩ := entersHandler_of_entersSelected hsel
    simp only [State.setPc_regs] at hi lo p hsp
    have h1 : t.stacked 1 = pushedP s.regs.p true := (State.stacked_eq_readLoc (by rw [hsp]; bv_omega)).trans p
    have h2 : t.stacked 2 = loByte (s.regs.pc + 1) := (State.stacked_eq_readLoc (by rw [hsp]; bv_omega)).trans lo
    have h3 : t.stacked 3 = hiByte (s.regs.pc + 1) := (State.stacked_eq_readLoc (by rw [hsp]; bv_omega)).trans hi
    refine ⟨t, _, ht, exec_rti t, Regs.ext_get (fun r => ?_) ?_⟩
    · cases r
      case sp =>
        change t.regs.sp + 3 = s.regs.sp
        rw [hsp]
        bv_omega
      case p => exact (congrArg pulledP h1).trans (pulledP_pushedP true hp)
      case a => exact hregs .a (by decide)
      case x => exact hregs .x (by decide)
      case y => exact hregs .y (by decide)
    · rw [State.setPc_regs, h2, h3, join_hiByte_loByte]

end Sys2Proof.Machine
end

section
/-! Stack, flag and no-operation instructions (R650 to R670, R701 to R703). -/

namespace Sys2Proof.Machine

/-! ## Pushes and pulls (R650 to R653) -/

namespace State

/-- A push writes one byte of page one, SP and the open-bus latch, and nothing else (R430). -/
theorem push_frame (s : State) (v : Byte) :
    let t := s.push v
    t.ramByte (0x100 + s.regs.sp.toNat) = v ∧ t.regs.sp = s.regs.sp - 1 ∧ keepsRegs s t [.sp] ∧ t.regs.pc = s.regs.pc ∧
      keepsBytes s t [some (stackLoc s.regs.sp)] ∧ { t with regs := s.regs, ram := s.ram, openBus := s.openBus } = s := by
  have hregs := s.push_regs v
  refine ⟨s.push_stores v, congrArg Regs.sp hregs, keepsRegs_of_sp hregs, ?pc, s.push_keepsBytes v, ?rest⟩
  case pc => rw [hregs]
  case rest =>
    rw [push_eq]
    rfl

/-- The byte a pull reads after a push is the byte pushed. -/
theorem stacked_push (s : State) (v : Byte) : (s.push v).stacked 1 = v := by
  have hsp : (s.push v).regs.sp + BitVec.ofNat 8 1 = s.regs.sp := by rw [push_regs]; bv_omega
  exact (stacked_eq_readLoc hsp).trans (s.push_stores v)

end State

theorem exec_pha (s : State) : exec .pha s = .next (s.push s.regs.a) := rfl

theorem exec_php (s : State) : exec .php s = .next (s.push (pushedP s.regs.p true)) := rfl

theorem exec_pla (s : State) : exec .pla s =
    .next (((s.setSp (s.regs.sp + 1)).setOpenBus (s.stacked 1)).assign [.a] (s.stacked 1)) := by
  change execPla s = _
  rw [execPla, State.pull_eq_stacked]
  rfl

theorem exec_plp (s : State) : exec .plp s =
    .next (((s.setSp (s.regs.sp + 1)).setOpenBus (s.stacked 1)).setP (pulledP (s.stacked 1))) := by
  change execPlp s = _
  rw [execPlp, State.pull_eq_stacked]

/-- Settles O21: `push_frame` for the pushes; PLA assigns the byte pulled to A, PLP puts it normalised into P. -/
theorem stackInstructionsUsePageOne : Obligations.StackInstructionsUsePageOne := by
  intro s top pushes
  refine ⟨⟨_, exec_pha s, s.push_frame _⟩, ⟨_, exec_php s, s.push_frame _⟩, ?pla,
    ⟨_, exec_plp s, rfl, rfl, keepsRegs_of_sp_p rfl, rfl, rfl⟩⟩
  case pla =>
    refine ⟨_, exec_pla s, rfl, showsNZ_setNZ _ _, keepsFlags_setNZ _ _, rfl, fun r hr => ?_, rfl, rfl⟩
    cases r
    case a | sp | p => simp at hr
    all_goals rfl

/-- After a push, PLP gives P the byte pushed, normalised, and SP its place before the push (R653). -/
theorem exec_plp_push (s : State) (v : Byte) :
    exec .plp (s.push v) = .next ((((s.push v).setSp s.regs.sp).setOpenBus v).setP (pulledP v)) := by
  have hsp : (s.push v).regs.sp + 1 = s.regs.sp := by rw [State.push_regs]; bv_omega
  rw [exec_plp, State.stacked_push, hsp]

/-- Settles O22: PLP pulls the byte PHP pushed, so P is what normalising the pushed status word gives. -/
theorem phpThenPlpRoundTrips : Obligations.PhpThenPlpRoundTrips := by
  intro s
  refine ⟨_, _, exec_php s, exec_plp_push s _, flag_pulledP _ .b, flag_pulledP _ .u, fun f hf => ?flags,
    keepsRegs_of_p (p := pulledP (pushedP s.regs.p true)) ?regs⟩
  case flags =>
    obtain ⟨hb, hu⟩ : f ≠ .b ∧ f ≠ .u := by simpa using hf
    change flag (pulledP (pushedP s.regs.p true)) f = _
    rw [flag_pulledP, if_neg hb, if_neg hu, flag_pushedP, if_neg hb, if_neg hu]
  case regs =>
    simp only [State.setP_regs, State.setOpenBus_regs, State.setSp_regs, State.push_regs]

/-! ## Flag instructions (R660 to R666) -/

/-- An instruction that puts a flag writes that flag alone. -/
theorem writesFlag_of_exec {i : Instr} {s : State} {f : Flag} {v : Bool} (h : exec i s = .next (s.putFlag f v)) :
    ∃ t, exec i s = .next t ∧ flag t.regs.p f = v ∧ keepsFlags s.regs.p t.regs.p [f] ∧ keepsRegs s t [.p] ∧
      t.regs.pc = s.regs.pc ∧ sameOutsideRegs s t :=
  ⟨_, h, (flag_setFlag s.regs.p f f v).trans (if_pos rfl),
    (keepsFlags.refl s.regs.p [f]).setFlag (List.mem_singleton_self f) v, keepsRegs_of_p rfl, rfl, rfl⟩

/-- Settles O23: each of the seven puts its flag. -/
theorem flagInstructionsWriteOneFlag : Obligations.FlagInstructionsWriteOneFlag := fun _ =>
  ⟨writesFlag_of_exec rfl, writesFlag_of_exec rfl, writesFlag_of_exec rfl, writesFlag_of_exec rfl, writesFlag_of_exec rfl,
    writesFlag_of_exec rfl, writesFlag_of_exec rfl⟩

/-! ## No operation (R670, R701 to R703) -/

/-- Settles O24: an operand read changes no register and no byte. -/
theorem nopsChangeNoRegister : Obligations.NopsChangeNoRegister := fun _ _ _ o s =>
  ⟨rfl, rfl, rfl, (s.readOperand o).2, rfl, rfl, State.readOperand_regs o s, fun l _ => State.readOperand_readLoc o s l⟩

end Sys2Proof.Machine
end

section
/-! The unofficial opcodes (R712 to R724), the OPEN opcodes (R770 to R780) and JAM (R750). A combined opcode is its rewriting
followed by the instruction it acts as; the four high-and stores are one bus write; an OPEN opcode is `openOpcode` of its
NMOS effect. -/

namespace Sys2Proof.Machine

/-! ## Combined read-modify-write opcodes (R712 to R717) -/

/-- With an immediate operand `j` goes on and changes registers alone. -/
def actsOnRegs (j : Operand → Instr) : Prop :=
  ∀ (v : Byte) (u : State), ∃ t, exec (j (.imm v)) u = .next t ∧ sameOutsideRegs u t

/-- A change of the registers alone keeps every byte of storage. -/
theorem sameOutsideRegs.readLoc {s t : State} (h : sameOutsideRegs s t) (l : Loc) : t.readLoc l = s.readLoc l :=
  Eq.trans (b := State.readLoc { t with regs := s.regs } l) rfl (congrArg (State.readLoc · l) h)

/-- An opcode that modifies memory and then does what `j` does with the new byte rewrites and then acts: the state between
has the memory rewritten and the carry in P, and `j` touches neither memory nor device. -/
theorem rewritesThen_of_exec {i : Instr} {o : Operand} {s : State} {f : Byte → Byte → Byte × Byte} {new : Byte → Byte}
    {carry : Byte → Bool} {j : Operand → Instr} (hf : modifiesAs f s.regs.p new carry) (hm : State.namesMemory o = true)
    (hj : actsOnRegs j) (h : exec i s = exec (j (.imm (s.modifyOperand o f).1)) (s.modifyOperand o f).2) :
    rewritesThen i o s new carry j := by
  rw [State.modifyOperand_rewritten o hm, hf] at h
  obtain ⟨t, hexec, hsame⟩ := hj (new (s.oldByte o).1) ((s.rewritten o (new (s.oldByte o).1)).withRegs
    { s.regs with p := setFlag s.regs.p .c (carry (s.oldByte o).1) })
  exact ⟨t, _, h.trans hexec, hexec, (flag_setFlag ..).trans (if_pos rfl),
    (keepsFlags.refl _ _).setFlag (List.mem_singleton_self _) _, keepsRegs_of_p rfl, rfl, rfl,
    fun l hl => (hsame.readLoc l).trans (State.rewritten_keepsBytes o s _ l hl),
    fun l hl => (hsame.readLoc l).trans (State.rewritten_stores o s _ hl)⟩

@[simp] theorem State.modifyOperand_params (o : Operand) (f : Byte → Byte → Byte × Byte) (s : State) :
    (s.modifyOperand o f).2.params = s.params := State.params_of_fixedPart (State.modifyOperand_fixedPart o f s)

/-- ISB subtracts as SBC does: the rewriting keeps DECIMAL_MODE. -/
theorem exec_isb (o : Operand) (s : State) :
    exec (.isb o) s = exec (.sbc (.imm (s.modifyOperand o increment).1)) (s.modifyOperand o increment).2 := by
  rw [exec_sbc, State.modifyOperand_params]
  rfl

/-- RRA adds as ADC does: the rewriting keeps DECIMAL_MODE. -/
theorem exec_rra (o : Operand) (s : State) :
    exec (.rra o) s = exec (.adc (.imm (s.modifyOperand o rotateRight).1)) (s.modifyOperand o rotateRight).2 := by
  rw [exec_adc, State.modifyOperand_params]
  rfl

/-- Settles O15: each opcode is its modify function and then the instruction it acts as, `rewritesThen_of_exec`. -/
theorem combinedOpcodesRewriteThenAct : Obligations.CombinedOpcodesRewriteThenAct := by
  intro o s hform c same top low
  have hm : State.namesMemory o = true := State.namesMemory_of_form hform
  refine ⟨rewritesThen_of_exec (modifiesAs_decrement _) hm ?_ rfl,
    rewritesThen_of_exec (modifiesAs_increment _) hm ?_ (exec_isb o s),
    rewritesThen_of_exec (modifiesAs_shiftLeft _) hm ?_ rfl,
    rewritesThen_of_exec (modifiesAs_rotateLeft _) hm ?_ rfl,
    rewritesThen_of_exec (modifiesAs_shiftRight _) hm ?_ rfl,
    rewritesThen_of_exec (modifiesAs_rotateRight _) hm ?_ (exec_rra o s)⟩
  all_goals exact fun v u => ⟨_, rfl, rfl⟩

/-! ## High-byte-and stores (R720 to R724) -/

/-- The byte a high-and store of `reg` writes (R720). -/
def State.highAndValue (o : Operand) (reg : Byte) (s : State) : Byte :=
  reg &&& BitVec.ofNat 8 ((s.effAddr o).1.base.toNat / 256 + 1)

/-- The address it writes: with `andHigh`, a crossing puts the byte into the high half (R720, log 5). -/
def State.highAndAddr (o : Operand) (reg : Byte) (s : State) : Addr :=
  if (s.effAddr o).1.crossed = true ∧ s.params.shAddrOnCross = .andHigh then
    join (s.highAndValue o reg) (loByte (s.effAddr o).1.ea)
  else (s.effAddr o).1.ea

/-- The high byte plus one is the quotient by 256 plus one. -/
theorem hiByte_add_one (w : Addr) : hiByte w + 1 = BitVec.ofNat 8 (w.toNat / 256 + 1) := by
  rw [← toNat_hiByte, BitVec.ofNat_add, BitVec.ofNat_toNat, BitVec.setWidth_eq]
  rfl

/-- A high-and store is one bus write after the dummy read (R720). -/
theorem State.storeHighAnd_eq (o : Operand) (reg : Byte) (s : State) :
    s.storeHighAnd o reg =
      ((s.effAddr o).2.memRead (s.effAddr o).1.uncorr).2.memWrite (s.highAndAddr o reg) (s.highAndValue o reg) := by
  simp only [storeHighAnd, highAndAddr, highAndValue, hiByte_add_one]

/-- An effective address does not depend on SP. -/
theorem State.effAddr_setSp (o : Operand) (s : State) (v : Byte) :
    (s.setSp v).effAddr o = ((s.effAddr o).1, (s.effAddr o).2.setSp v) := by
  cases o
  case izx | izy =>
    simp only [effAddr, readPointer, memRead_zext]
    rfl
  all_goals rfl

/-- Setting SP where the registers are those of `s`. -/
theorem State.setSp_eq_withRegs {s u : State} (h : u.regs = s.regs) (v : Byte) :
    u.setSp v = u.withRegs { s.regs with sp := v } := by
  rw [← h]
  rfl

theorem State.memRead_setSp (s : State) (v : Byte) (a : Addr) :
    (s.setSp v).memRead a = ((s.memRead a).1, (s.memRead a).2.setSp v) := by
  rw [setSp_eq_withRegs (memRead_regs s a)]
  exact s.memRead_withRegs _ a

theorem State.memWrite_setSp (s : State) (v : Byte) (a : Addr) (b : Byte) :
    (s.setSp v).memWrite a b = (s.memWrite a b).setSp v := by
  rw [setSp_eq_withRegs (memWrite_regs s a b)]
  exact s.memWrite_withRegs _ a b

/-- Setting SP before a high-and store is setting it after: no address or bus access looks at SP. -/
theorem State.storeHighAnd_setSp (o : Operand) (reg v : Byte) (s : State) :
    (s.setSp v).storeHighAnd o reg = (s.storeHighAnd o reg).setSp v := by
  simp only [storeHighAnd, effAddr_setSp, memRead_setSp, memWrite_setSp, setSp_params]

/-- `i` stores `reg` anded with the base's high byte plus one, as R720 says, leaves `sp` in SP and changes nothing else. -/
def storesHighAnd (i : Instr) (o : Operand) (s : State) (reg sp : Byte) : Prop :=
  let u := ((s.effAddr o).2.memRead (s.effAddr o).1.uncorr).2
  let a := s.highAndAddr o reg
  let v := s.highAndValue o reg
  ∃ t, exec i s = .next t ∧ t.regs = { s.regs with sp := sp } ∧ t.cycles = s.cycles ∧ sameOutsideRegs (u.memWrite a v) t ∧
    (∀ l, u.storeLoc a = some l → t.readLoc l = storedByte l v) ∧ keepsBytes s t [u.storeLoc a]

/-- An instruction that sets SP, to a new value or its own, and is `storeHighAnd` stores high-and: the laws of the bus write
say what is stored and kept. -/
theorem storesHighAnd_of_exec {i : Instr} {o : Operand} {s : State} {reg sp : Byte}
    (h : exec i s = .next ((s.setSp sp).storeHighAnd o reg)) : storesHighAnd i o s reg sp := by
  rw [State.storeHighAnd_setSp, State.storeHighAnd_eq] at h
  refine ⟨_, h, by simp, by simp, rfl, fun l hl => State.memWrite_stores _ _ _ hl, fun l hl => ?_⟩
  exact (State.memWrite_keepsBytes _ _ _ l hl).trans (by simp)

/-- Settles O25: each of the four is `storeHighAnd`, TAS after setting SP. -/
theorem highAndStores : Obligations.HighAndStores := fun _ _ =>
  ⟨fun _ => storesHighAnd_of_exec rfl, fun _ => storesHighAnd_of_exec rfl, fun _ => storesHighAnd_of_exec rfl,
    fun _ => storesHighAnd_of_exec rfl⟩

/-! ## OPEN opcodes (R770 to R780) -/

section
variable {s : State} (m : String) (effect : Result)

theorem openOpcode_refuse (h : s.params.extraUnofficial = .refuse) : openOpcode m s effect = .refused (.openOpcode m) := by
  rw [openOpcode, h]

theorem openOpcode_jam (h : s.params.extraUnofficial = .jam) : openOpcode m s effect = .next s.halt := by
  rw [openOpcode, h]

theorem openOpcode_nmos (h : s.params.extraUnofficial = .nmos) : openOpcode m s effect = effect := by
  rw [openOpcode, h]

end

/-- Each OPEN opcode is `openOpcode` of some effect (R770). -/
theorem exec_eq_openOpcode {k : Fin 2} {v : Byte} {o : Operand} {i : Instr}
    (h : i ∈ [.anc k v, .alr v, .arr v, .xaa v, .lxa v, .las o, .axs v]) (s : State) :
    ∃ m effect, exec i s = openOpcode m s effect := by
  simp only [List.mem_cons, List.not_mem_nil, or_false] at h
  obtain rfl | rfl | rfl | rfl | rfl | rfl | rfl := h
  all_goals exact ⟨_, _, rfl⟩

/-- Settles O28: what `openOpcode` gives under `refuse` and `jam`, and ARR's effect in decimal mode. -/
theorem openOpcodesAreRefusedOrHalt : Obligations.OpenOpcodesAreRefusedOrHalt := by
  intro k v o s i hi
  obtain ⟨m, effect, hexec⟩ := exec_eq_openOpcode hi s
  refine ⟨fun h => ?refused, fun h => hexec.trans (openOpcode_jam m effect h), ?decimal⟩
  case refused =>
    have hrefuse : s.params.extraUnofficial = .refuse := h.elim id fun hp => hp ▸ rfl
    exact ⟨m, hexec.trans (openOpcode_refuse m effect hrefuse)⟩
  case decimal =>
    rintro rfl hnmos hmode hd
    exact (openOpcode_nmos _ _ hnmos).trans (if_pos (Bool.and_eq_true_iff.mpr ⟨hmode, hd⟩))

/-! ### Results in A or X under `nmos` (R771 to R773, R777) -/

/-- `i` puts `r` into A, N and Z showing it, and writes no other flag but `fs`; everything else stays. -/
def leavesInA (i : Instr) (s : State) (r : Byte) (fs : List Flag) (t : State) : Prop :=
  exec i s = .next t ∧ t.regs.a = r ∧ showsNZ t.regs.p r ∧ keepsFlags s.regs.p t.regs.p (.n :: .z :: fs) ∧
    keepsRegs s t [.a, .p] ∧ t.regs.pc = s.regs.pc ∧ sameOutsideRegs s t

theorem leavesInA_of_exec {i : Instr} {s : State} {r p : Byte} {fs : List Flag} (h : exec i s = .next (s.setAP (r, p)))
    (hnz : showsNZ p r) (hkeep : keepsFlags s.regs.p p (.n :: .z :: fs)) : leavesInA i s r fs (s.setAP (r, p)) :=
  ⟨h, rfl, hnz, hkeep, keepsRegs_of_ap rfl, rfl, rfl⟩

/-- A flag other than N and Z written after them leaves them. -/
theorem showsNZ.setFlag {p v : Byte} (h : showsNZ p v) {f : Flag} (hn : f ≠ .n) (hz : f ≠ .z) (b : Bool) :
    showsNZ (setFlag p f b) v := by
  simpa [showsNZ, hn.symm, hz.symm] using h

section
variable (v : Byte) {s : State} (h : s.params.extraUnofficial = .nmos)
include h

/-- ALR: the and shifted right, C the bit shifted out (R772). -/
theorem exec_alr : exec (.alr v) s = .next (s.setAP (BitVec.ofNat 8 ((s.regs.a &&& v).toNat / 2),
    setNZ (setFlag s.regs.p .c ((s.regs.a &&& v).getLsbD 0)) (BitVec.ofNat 8 ((s.regs.a &&& v).toNat / 2)))) := by
  rw [← shiftRight_one]
  exact openOpcode_nmos _ _ h

/-- ARR in binary: the rotate's result, C its bit 6 and V its bits 6 and 5 (R773). -/
theorem exec_arr (hbin : s.params.decimalMode = false ∨ flag s.regs.p .d = false) :
    let r := BitVec.ofNat 8 ((s.regs.a &&& v).toNat / 2 + 128 * (flag s.regs.p .c).toNat)
    exec (.arr v) s = .next (s.setAP (r, setFlag (setFlag (setNZ s.regs.p r) .c (r.getLsbD 6)) .v
      (r.getLsbD 6 ^^ r.getLsbD 5))) := by
  rw [← shiftRight_one_or]
  exact (openOpcode_nmos _ _ h).trans (if_neg (ne_true_of_eq_false (Bool.and_eq_false_iff.mpr hbin)))

end

/-- A difference of bytes, modulo 256. -/
theorem toNat_sub_emod (a b : Byte) : ((a - b).toNat : Int) = (a.toNat - b.toNat : Int) % 256 := by
  rw [BitVec.toNat_sub]
  omega

theorem keepsRegs_of_xp {s t : State} {v p : Byte} (h : t.regs = { s.regs with x := v, p := p }) :
    keepsRegs s t [.x, .p] := by
  intro r hr
  rw [h]
  cases r
  case x | p => simp at hr
  all_goals rfl

/-- Settles O26: ANC, ALR and ARR put a result into A, and AXS compares A & X with its operand. -/
theorem openOpcodesAsOnNmos : Obligations.OpenOpcodesAsOnNmos := by
  intro k v s hnmos and writesA
  refine ⟨?anc, ?alr, fun hbin => ?arr, ?axs⟩
  case anc =>
    exact ⟨_, leavesInA_of_exec (openOpcode_nmos _ _ hnmos) ((showsNZ_setNZ _ _).setFlag (by decide) (by decide) _)
      (((keepsFlags.refl _ _).setNZ (by decide) (by decide) _).setFlag (by decide) _), by simp⟩
  case alr =>
    exact ⟨_, leavesInA_of_exec (exec_alr v hnmos) (showsNZ_setNZ _ _)
      (((keepsFlags.refl _ _).setFlag (by decide) _).setNZ (by decide) (by decide) _), by simp [and]⟩
  case arr =>
    exact ⟨_, leavesInA_of_exec (exec_arr v hnmos hbin)
      (((showsNZ_setNZ _ _).setFlag (by decide) (by decide) _).setFlag (by decide) (by decide) _)
      ((((keepsFlags.refl _ _).setNZ (by decide) (by decide) _).setFlag (by decide) _).setFlag (by decide) _),
      by simp [and], by simp [and]⟩
  case axs =>
    exact ⟨_, openOpcode_nmos _ _ hnmos, toNat_sub_emod _ _, showsNZ_setNZ _ _, by simp,
      ((keepsFlags.refl _ _).setFlag (by decide) _).setNZ (by decide) (by decide) _, keepsRegs_of_xp rfl, rfl, rfl⟩

/-! ### Unstable results under `nmos` (R774 to R776) -/

theorem keepsRegs.mono {s t : State} {l m : List Reg} (h : keepsRegs s t l) (hlm : l ⊆ m) : keepsRegs s t m :=
  fun r hr => h r fun hl => hr (hlm hl)

/-- Settles O27: XAA and LXA draw a byte and assign, LAS assigns after its operand read. -/
theorem unstableOpcodesDrawOneByte : Obligations.UnstableOpcodesDrawOneByte := by
  intro v o s hnmos m drew
  refine ⟨?xaa, ?lxa, ?las⟩
  case xaa =>
    exact ⟨s.drawMagic.2.assign [.a] _, openOpcode_nmos _ _ hnmos, rfl, showsNZ_setNZ _ _, keepsFlags_setNZ _ _,
      keepsRegs_of_ap rfl, rfl, rfl, rfl⟩
  case lxa =>
    exact ⟨s.drawMagic.2.assign [.a, .x] _, openOpcode_nmos _ _ hnmos, rfl, rfl, showsNZ_setNZ _ _, keepsFlags_setNZ _ _,
      (s.drawMagic.2.assign_keepsRegs [.a, .x] _).mono (by decide), rfl, rfl, rfl⟩
  case las =>
    refine loadsTo_of_exec ((openOpcode_nmos _ _ hnmos).trans ?_)
    rw [State.readOperand_regs]
    rfl

/-! ## JAM (R750, R850) -/

/-- Settles O29: JAM sets `halted` alone. -/
theorem jamParksTheProcessor : Obligations.JamParksTheProcessor := fun _ s => ⟨s.halt, rfl, rfl, rfl⟩

end Sys2Proof.Machine
end

section
/-! The dots of the picture unit (R900, R901, R950 to R952): what a dot leaves alone, how it moves the position, and when it
raises the NMI request. From it, that `nmiEdgeWithin` foresees the edge (R824). -/

namespace Sys2Proof.Machine
namespace State

/-! ## What a dot leaves alone -/

/-- The machine without the picture unit, the NMI latches and what is delivered to the host: what no dot touches. -/
def outsidePpu (s : State) : State := { s with ppu := Ppu.reset, nmiPending := false, nmiConsumedAhead := false, out := [] }

@[simp] theorem setPpu_outsidePpu (s : State) (p : Ppu) : (s.setPpu p).outsidePpu = s.outsidePpu := rfl

@[simp] theorem emit_outsidePpu (s : State) (e : HostEvent) : (s.emit e).outsidePpu = s.outsidePpu := rfl

@[simp] theorem setNmiRequest_outsidePpu (s : State) (r : Bool) : (s.setNmiRequest r).outsidePpu = s.outsidePpu := by
  unfold setNmiRequest onNmiEdge
  dsimp only
  split
  · split <;> rfl
  · rfl

@[simp] theorem preRender_outsidePpu (s : State) (sl d : Nat) : (s.preRender sl d).outsidePpu = s.outsidePpu := by
  unfold preRender
  split <;> simp

@[simp] theorem renderBackground_outsidePpu (s : State) (sl d : Nat) (r : Bool) :
    (s.renderBackground sl d r).outsidePpu = s.outsidePpu := by
  obtain ⟨_, _, _, _, _, _, _, _, _, h⟩ := s.renderBackground_changes sl d r
  rw [h, setPpu_outsidePpu]

@[simp] theorem vblankStart_outsidePpu (s : State) (sl d : Nat) : (s.vblankStart sl d).outsidePpu = s.outsidePpu := by
  unfold vblankStart
  dsimp only
  split
  · split <;> simp
  · rfl

@[simp] theorem renderPixel_outsidePpu (s : State) (sl d : Nat) : (s.renderPixel sl d).outsidePpu = s.outsidePpu := by
  unfold renderPixel
  split <;> rfl

@[simp] theorem advanceDot_outsidePpu (s : State) (sl d : Nat) : (s.advanceDot sl d).outsidePpu = s.outsidePpu := by
  unfold advanceDot
  split
  · split <;> rfl
  · rfl

@[simp] theorem ppuTick_outsidePpu (s : State) : s.ppuTick.outsidePpu = s.outsidePpu := by simp [ppuTick]

@[simp] theorem ppuTick_lastSync (s : State) : s.ppuTick.lastSync = s.lastSync := congrArg (·.lastSync) s.ppuTick_outsidePpu

@[simp] theorem ppuTick_apu (s : State) : s.ppuTick.apu = s.apu := congrArg (·.apu) s.ppuTick_outsidePpu

/-! ## The position -/

@[simp] theorem setNmiRequest_ppu (s : State) (r : Bool) : (s.setNmiRequest r).ppu = { s.ppu with nmiRequest := r } := by
  unfold setNmiRequest onNmiEdge
  dsimp only
  split
  · split <;> rfl
  · rfl

@[simp] theorem preRender_scanline (s : State) (sl d : Nat) : (s.preRender sl d).ppu.scanline = s.ppu.scanline := by
  unfold preRender
  split <;> simp

@[simp] theorem renderBackground_scanline (s : State) (sl d : Nat) (r : Bool) :
    (s.renderBackground sl d r).ppu.scanline = s.ppu.scanline := by
  obtain ⟨_, _, _, _, _, _, _, _, _, h⟩ := s.renderBackground_changes sl d r
  rw [h, setPpu_ppu]

@[simp] theorem vblankStart_scanline (s : State) (sl d : Nat) : (s.vblankStart sl d).ppu.scanline = s.ppu.scanline := by
  unfold vblankStart
  dsimp only
  split
  · split <;> simp
  · rfl

@[simp] theorem renderPixel_scanline (s : State) (sl d : Nat) : (s.renderPixel sl d).ppu.scanline = s.ppu.scanline := by
  unfold renderPixel
  split <;> rfl

/-- A tick moves to the next dot of the scanline (R901). -/
theorem ppuTick_dot (s : State) : s.ppuTick.ppu.dot = if s.ppu.dot + 1 = 341 then 0 else s.ppu.dot + 1 := by
  unfold ppuTick advanceDot
  dsimp only
  split
  · split <;> rfl
  · rfl

/-- After the last dot the scanline is the next one (R901). -/
theorem ppuTick_scanline (s : State) : s.ppuTick.ppu.scanline =
    if s.ppu.dot + 1 = 341 then (if s.ppu.scanline + 1 = 262 then 0 else s.ppu.scanline + 1) else s.ppu.scanline := by
  unfold ppuTick advanceDot
  dsimp only
  split
  · split <;> rfl
  · simp

end State

/-- The position is one of the frame's dots (R901). -/
def Ppu.InFrame (p : Ppu) : Prop := p.dot ≤ 340 ∧ p.scanline ≤ 261

theorem Ppu.InFrame.position_lt {p : Ppu} (h : p.InFrame) : p.position < 89342 := by
  obtain ⟨hd, hs⟩ := h
  unfold Ppu.position
  omega

/-- Scanline 241, dot 1 is dot 82182 of the frame. -/
theorem Ppu.InFrame.position_eq_vblank {p : Ppu} (h : p.InFrame) :
    p.position = 82182 ↔ p.scanline = 241 ∧ p.dot = 1 := by
  obtain ⟨hd, hs⟩ := h
  unfold Ppu.position
  omega

namespace State

theorem ppuTick_inFrame {s : State} (h : s.ppu.InFrame) : s.ppuTick.ppu.InFrame := by
  obtain ⟨hd, hs⟩ := h
  unfold Ppu.InFrame
  rw [ppuTick_dot, ppuTick_scanline]
  split
  · split <;> omega
  · omega

/-- A tick moves the position by one dot of 89342 (R900, R901). -/
theorem ppuTick_position {s : State} (h : s.ppu.InFrame) : s.ppuTick.ppu.position = (s.ppu.position + 1) % 89342 := by
  obtain ⟨hd, hs⟩ := h
  unfold Ppu.position
  rw [ppuTick_dot, ppuTick_scanline]
  split
  · split <;> omega
  · omega

theorem iterate_ppuTick_inFrame {s : State} (h : s.ppu.InFrame) (n : Nat) : (ppuTick^[n] s).ppu.InFrame := by
  induction n with
  | zero => exact h
  | succ n ih =>
    rw [Function.iterate_succ_apply']
    exact ppuTick_inFrame ih

/-- So `n` ticks move it by `n` dots. -/
theorem iterate_ppuTick_position {s : State} (h : s.ppu.InFrame) (n : Nat) :
    (ppuTick^[n] s).ppu.position = (s.ppu.position + n) % 89342 := by
  induction n with
  | zero => rw [Function.iterate_zero, id, Nat.add_zero, Nat.mod_eq_of_lt h.position_lt]
  | succ n ih =>
    rw [Function.iterate_succ_apply', ppuTick_position (iterate_ppuTick_inFrame h n), ih]
    omega

/-! ## The NMI request -/

/-- What an NMI edge depends on and changes: PPUCTRL, the request, the two latches (R122, R810). -/
def nmiSignals (s : State) : Byte × Bool × Bool × Bool := (s.ppu.ctrl, s.ppu.nmiRequest, s.nmiPending, s.nmiConsumedAhead)

@[simp] theorem emit_nmiSignals (s : State) (e : HostEvent) : (s.emit e).nmiSignals = s.nmiSignals := rfl

@[simp] theorem renderBackground_nmiSignals (s : State) (sl d : Nat) (r : Bool) :
    (s.renderBackground sl d r).nmiSignals = s.nmiSignals := by
  obtain ⟨_, _, _, _, _, _, _, _, _, h⟩ := s.renderBackground_changes sl d r
  rw [h]
  rfl

@[simp] theorem renderPixel_nmiSignals (s : State) (sl d : Nat) : (s.renderPixel sl d).nmiSignals = s.nmiSignals := by
  unfold renderPixel
  split <;> rfl

@[simp] theorem advanceDot_nmiSignals (s : State) (sl d : Nat) : (s.advanceDot sl d).nmiSignals = s.nmiSignals := by
  unfold advanceDot
  split
  · split <;> rfl
  · rfl

/-- Driving the request looks at the signals alone (R810). -/
theorem setNmiRequest_nmiSignals (s : State) (r : Bool) : (s.setNmiRequest r).nmiSignals =
    (s.ppu.ctrl, r, s.nmiPending || (!s.ppu.nmiRequest && r && !s.nmiConsumedAhead),
      s.nmiConsumedAhead && !(!s.ppu.nmiRequest && r)) := by
  unfold setNmiRequest onNmiEdge
  cases hq : s.ppu.nmiRequest <;> cases r <;> cases ha : s.nmiConsumedAhead <;> simp [nmiSignals, ha]

/-- The pre-render clear drives the request low (R951). -/
theorem preRender_nmiSignals (s : State) (sl d : Nat) : (s.preRender sl d).nmiSignals =
    if sl = 261 ∧ d = 1 then (s.setNmiRequest false).nmiSignals else s.nmiSignals := by
  unfold preRender
  split
  · simp only [setNmiRequest_nmiSignals]
    rfl
  · rfl

/-- The start of vertical blank drives it high where PPUCTRL enables it (R950). -/
theorem vblankStart_nmiSignals (s : State) (sl d : Nat) : (s.vblankStart sl d).nmiSignals =
    if (sl = 241 ∧ d = 1) ∧ s.ppu.ctrl.getLsbD 7 = true then (s.setNmiRequest true).nmiSignals else s.nmiSignals := by
  unfold vblankStart
  dsimp only
  split
  case isTrue h =>
    rw [emit_nmiSignals, setPpu_ppu]
    dsimp only
    by_cases hc : s.ppu.ctrl.getLsbD 7 = true
    · rw [if_pos hc, if_pos ⟨h, hc⟩, setNmiRequest_nmiSignals, setNmiRequest_nmiSignals]
      rfl
    · rw [if_neg hc, if_neg fun hp => hc hp.2]
      rfl
  case isFalse h => rw [if_neg fun hc => h hc.1]

/-- A tick drives the request at two dots of the frame and leaves the signals alone at the others (R950, R951, R952). -/
theorem ppuTick_nmiSignals (s : State) : s.ppuTick.nmiSignals =
    if (s.ppu.scanline = 241 ∧ s.ppu.dot = 1) ∧ s.ppu.ctrl.getLsbD 7 = true then (s.setNmiRequest true).nmiSignals
    else if s.ppu.scanline = 261 ∧ s.ppu.dot = 1 then (s.setNmiRequest false).nmiSignals
    else s.nmiSignals := by
  unfold ppuTick
  dsimp only
  rw [advanceDot_nmiSignals, renderPixel_nmiSignals]
  by_cases hv : s.ppu.scanline = 241
  case pos =>
    have hpre : s.preRender s.ppu.scanline s.ppu.dot = s := if_neg (by omega)
    have hbg : s.renderBackground s.ppu.scanline s.ppu.dot s.ppu.rendering = s := if_neg (by omega)
    rw [hpre, hbg, vblankStart_nmiSignals, if_neg (c := _ ∧ _) (show ¬ (s.ppu.scanline = 261 ∧ s.ppu.dot = 1) by omega)]
  case neg =>
    rw [vblankStart_nmiSignals, if_neg (by simp [hv]), if_neg (by simp [hv]), renderBackground_nmiSignals, preRender_nmiSignals]

/-- No tick changes PPUCTRL. -/
@[simp] theorem ppuTick_ctrl (s : State) : s.ppuTick.ppu.ctrl = s.ppu.ctrl := by
  have h := congrArg (·.1) s.ppuTick_nmiSignals
  dsimp only [nmiSignals] at h
  rw [h]
  split
  · simp
  · split <;> simp

/-- Only the tick that begins vertical blank raises the request, where PPUCTRL enables it. -/
theorem ppuTick_nmiRequest {s : State} (h : s.ppu.InFrame) (hq : s.ppu.nmiRequest = false) :
    s.ppuTick.ppu.nmiRequest = true ↔ s.ppu.position = 82182 ∧ s.ppu.ctrl.getLsbD 7 = true := by
  have hsig := congrArg (·.2.1) s.ppuTick_nmiSignals
  dsimp only [nmiSignals] at hsig
  rw [h.position_eq_vblank, hsig]
  split
  case isTrue hv => simpa using hv
  case isFalse hv =>
    rw [eq_false hv]
    split <;> simp [hq]

/-- And there it absorbs an edge taken ahead; no tick takes one (R810). -/
theorem ppuTick_nmiConsumedAhead {s : State} (h : s.ppu.InFrame) : s.ppuTick.nmiConsumedAhead = true ↔
    s.nmiConsumedAhead = true ∧
      ¬ ((s.ppu.position = 82182 ∧ s.ppu.ctrl.getLsbD 7 = true) ∧ s.ppu.nmiRequest = false) := by
  have hsig := congrArg (·.2.2.2) s.ppuTick_nmiSignals
  simp only [setNmiRequest_nmiSignals] at hsig
  dsimp only [nmiSignals] at hsig
  rw [h.position_eq_vblank, hsig]
  split
  case isTrue hv =>
    rw [eq_true hv]
    simp
  case isFalse hv =>
    rw [eq_false hv]
    split <;> simp

end State

/-- The ticks before the one that begins vertical blank (R824). -/
def Ppu.dotsToVblank (p : Ppu) : Nat := (82182 + 89342 - p.position) % 89342

theorem Ppu.dotsToVblank_lt (p : Ppu) : p.dotsToVblank < 89342 := Nat.mod_lt _ (by decide)

/-- After `k` ticks vertical blank is `k` dots nearer. -/
theorem Ppu.dotsToVblank_iff {p : Ppu} (h : p.InFrame) {k : Nat} (hk : k < 89342) :
    (p.position + k) % 89342 = 82182 ↔ k = p.dotsToVblank := by
  have := h.position_lt
  unfold Ppu.dotsToVblank
  omega

namespace State

/-- The closed form of R824 is in the dots to vertical blank. -/
theorem nmiEdgeWithin_iff (s : State) (n : Nat) : s.nmiEdgeWithin n = true ↔
    s.ppu.ctrl.getLsbD 7 = true ∧ s.ppu.nmiRequest = false ∧ s.ppu.dotsToVblank < 3 * n := by
  simp [nmiEdgeWithin, Ppu.dotsToVblank, Ppu.position, and_assoc]

@[simp] theorem iterate_ppuTick_ctrl (s : State) (n : Nat) : (ppuTick^[n] s).ppu.ctrl = s.ppu.ctrl := by
  induction n with
  | zero => rfl
  | succ n ih => rw [Function.iterate_succ_apply', ppuTick_ctrl, ih]

/-- The request stands after some of the first `n` ticks exactly when PPUCTRL enables it and vertical blank begins at one of
them. -/
theorem iterate_ppuTick_nmiRequest {s : State} (h : s.ppu.InFrame) (hq : s.ppu.nmiRequest = false) (n : Nat) :
    (∃ k, k ≤ n ∧ (ppuTick^[k] s).ppu.nmiRequest = true) ↔ s.ppu.ctrl.getLsbD 7 = true ∧ s.ppu.dotsToVblank < n := by
  induction n with
  | zero => simp [hq]
  | succ n ih =>
    by_cases hup : ∃ k, k ≤ n ∧ (ppuTick^[k] s).ppu.nmiRequest = true
    case pos =>
      obtain ⟨hc, hd⟩ := ih.mp hup
      obtain ⟨k, hk, hr⟩ := hup
      exact iff_of_true ⟨k, by omega, hr⟩ ⟨hc, by omega⟩
    case neg =>
      have hlow : (ppuTick^[n] s).ppu.nmiRequest = false := Bool.eq_false_iff.mpr fun hr => hup ⟨n, le_rfl, hr⟩
      have hfar : s.ppu.ctrl.getLsbD 7 = true → n ≤ s.ppu.dotsToVblank := fun hc =>
        Nat.le_of_not_lt fun hd => hup (ih.mpr ⟨hc, hd⟩)
      have hlt := s.ppu.dotsToVblank_lt
      have hnext := ppuTick_nmiRequest (iterate_ppuTick_inFrame h n) hlow
      rw [← Function.iterate_succ_apply' ppuTick, iterate_ppuTick_position h, iterate_ppuTick_ctrl] at hnext
      constructor
      · rintro ⟨k, hk, hr⟩
        obtain rfl : k = n + 1 := by
          by_contra hne
          exact hup ⟨k, by omega, hr⟩
        obtain ⟨hp, hc⟩ := hnext.mp hr
        have := (Ppu.dotsToVblank_iff h (by have := hfar hc; omega)).mp hp
        exact ⟨hc, by omega⟩
      · rintro ⟨hc, hd⟩
        have hn : n = s.ppu.dotsToVblank := by have := hfar hc; omega
        exact ⟨n + 1, le_rfl, hnext.mpr ⟨(Ppu.dotsToVblank_iff h (by omega)).mpr hn, hc⟩⟩

end State

/-- Settles O33: both sides say that PPUCTRL enables the request and vertical blank begins at one of the next `3 * n` ticks. -/
theorem hijackWindowForeseesTheEdge : Obligations.HijackWindowForeseesTheEdge := by
  intro n s hd hs hq
  rw [State.nmiEdgeWithin_iff, State.iterate_ppuTick_nmiRequest ⟨hd, hs⟩ hq]
  simp only [hq, true_and]

end Sys2Proof.Machine
end

section
/-! The processor call in its priority order (R815), the interrupt sequences (R820 to R824) and the halted call (R850, R861). -/

namespace Sys2Proof.Machine

/-! ## The priority order -/

/-- Settles O35: the branches of `processorCall`, in its order. -/
theorem callsFollowThePriority : Obligations.CallsFollowThePriority := by
  intro s hr hh
  have hlive : s.processorCall =
      if s.dma.active then .next s.dmaMicroStep.sampleMask
      else if s.noPollOnce then ({ s with noPollOnce := false } : State).executeInstruction
      else if s.nmiPending then .next (s.takeException .nmi).sampleMask
      else if s.apu.irqLine && !s.irqMaskSample then .next (s.takeException .irq).sampleMask
      else s.executeInstruction := by
    rw [State.processorCall, if_neg (ne_true_of_eq_false hr), if_neg (ne_true_of_eq_false hh)]
  rw [hlive]
  refine ⟨fun hd => if_pos hd, fun hd => ?_⟩
  rw [if_neg (ne_true_of_eq_false hd)]
  refine ⟨fun hp => if_pos hp, fun hp => ?_⟩
  rw [if_neg (ne_true_of_eq_false hp)]
  refine ⟨fun hn => if_pos hn, fun hn => ?_⟩
  rw [if_neg (ne_true_of_eq_false hn)]
  refine ⟨fun ⟨hline, hmask⟩ => if_pos ?_, fun h => if_neg ?_⟩
  · rw [Apu.irqLine, hline, hmask]
    rfl
  · obtain hline | hmask := h
    · simp [Apu.irqLine, hline]
    · simp [hmask]

/-! ## The interrupt sequences -/

namespace State

/-- An NMI drops the pending edge, saves its frame and enters at its own vector, in 7 cycles (R820). -/
theorem takeException_nmi (s : State) :
    s.takeException .nmi = ((s.saveFrame .nmi).withNmi false s.nmiConsumedAhead).enterAt nmiVector 7 := by
  have hframe : ({ s with nmiPending := false } : State).saveFrame .nmi =
      (s.saveFrame .nmi).withNmi false s.nmiConsumedAhead := by
    rw [saveFrame_eq, saveFrame_eq]
    rfl
  rw [← hframe]
  rfl

/-- An IRQ saves its frame, then enters at the vector selected, in 7 cycles (R820, R821). -/
theorem takeException_irq (s : State) :
    s.takeException .irq = (s.saveFrame .irq).selectVector.2.enterAt (s.saveFrame .irq).selectVector.1 7 := rfl

end State

/-- Settles O31: the NMI's vector is fixed, `entersHandler_enterAt`, and the IRQ's selected, `entersSelected_selectVector`. -/
theorem interruptsEnterTheirHandler : Obligations.InterruptsEnterTheirHandler := by
  intro s
  refine ⟨?nmi, ?irq⟩
  case nmi =>
    rw [State.takeException_nmi]
    refine ⟨State.entersHandler_enterAt .nmi s _ _ 7 (vector := nmiVector) (by decide) (by decide), ?_⟩
    simp [State.enterAt, State.read16, State.withNmi, State.saveFrame_eq]
  case irq =>
    rw [State.takeException_irq]
    exact ⟨State.entersSelected_selectVector .irq s 7, by simp [State.saveFrame_eq]⟩

/-! ## The halted call -/

/-- Devices that are level with the processor have nothing to replay (R860). -/
theorem catchUp_of_level {s : State} (h : s.lastSync = s.cycles) : s.catchUp = s := by
  rw [State.catchUp, h, Nat.sub_self, State.replay]
  exact congrArg (fun n => { s with lastSync := n }) h.symm

/-- A halted step is the re-fetch and the catch-up (R861, R862). -/
theorem step_halted {s : State} (hh : s.halted = true) (hr : s.refused = false) (hout : s.out = []) :
    step s = .next s.refetchJam.catchUp := by
  have hcall : s.processorCall = .next s.refetchJam := by
    rw [State.processorCall, if_neg (ne_true_of_eq_false hr), if_pos hh]
  have hfresh : ({ s with out := [] } : State) = s := congrArg (fun l => { s with out := l }) hout.symm
  unfold step
  rw [hfresh, hcall]

/-- A read that finds on the open bus what `Peek` shows in storage or in the expansion area changes nothing (R214, R215). -/
theorem memRead_of_openBus {s : State} {a : Addr}
    (ha : State.isStored a = true ∨ (0x4020 ≤ a.toNat ∧ a.toNat ≤ 0x5FFF)) (h : s.openBus = s.peek a) :
    (s.memRead a).2 = s := by
  obtain hs | ⟨hlo, hhi⟩ := ha
  · rw [State.memRead_stored s hs, ← h]
    rfl
  · rw [State.memRead_expansion s (by omega) hhi]

/-- Settles O30: the re-fetch moves no cycle, so level devices stay as they are. -/
theorem haltedIsAFixedPoint : Obligations.HaltedIsAFixedPoint := by
  intro s hh hr hlevel hout
  rw [step_halted hh hr hout]
  refine ⟨fun hfix => ?_, fun hbus => ?_⟩
  · rw [State.refetchJam, hfix]
    exact congrArg _ (catchUp_of_level hlevel)
  · have hread : s.refetchJam.catchUp = (s.memRead s.regs.pc).2 := by
      rw [State.refetchJam, hbus]
      exact catchUp_of_level (by simpa using hlevel)
    rw [hread]
    exact ⟨rfl, fun ha h => congrArg _ (memRead_of_openBus ha h)⟩

end Sys2Proof.Machine
end

section
/-! The shared clock (R120, R860, R862): a processor call leaves the devices where they stood and counts its cycles, and the
catch-up replays them, three dots and one sound tick each. An NMI edge that a call takes ahead is due within the cycles of that
call (R824), so the catch-up absorbs it. -/

namespace Sys2Proof.Machine

/-! ## What a processor call leaves of the devices -/

/-- The devices stand in `t` where they stood in `s`, and the cycle counter has not gone back. -/
structure HoldsDevices (s t : State) : Prop where
  lastSync : t.lastSync = s.lastSync
  dot : t.ppu.dot = s.ppu.dot
  scanline : t.ppu.scanline = s.ppu.scanline
  ticks : t.apu.ticks = s.apu.ticks
  cycles : s.cycles ≤ t.cycles

theorem HoldsDevices.trans {s t u : State} (h : HoldsDevices s t) (k : HoldsDevices t u) : HoldsDevices s u where
  lastSync := k.lastSync.trans h.lastSync
  dot := k.dot.trans h.dot
  scanline := k.scanline.trans h.scanline
  ticks := k.ticks.trans h.ticks
  cycles := h.cycles.trans k.cycles

/-- And no NMI edge has been taken ahead: what every operation does but selecting a vector (R821). -/
structure TakesNoEdge (s t : State) : Prop extends HoldsDevices s t where
  ahead : s.nmiConsumedAhead = false → t.nmiConsumedAhead = false

namespace State

/-- Driving the request takes no edge ahead (R810). -/
theorem setNmiRequest_nmiConsumedAhead {s : State} (h : s.nmiConsumedAhead = false) (r : Bool) :
    (s.setNmiRequest r).nmiConsumedAhead = false := by
  have hsig := congrArg (·.2.2.2) (s.setNmiRequest_nmiSignals r)
  rw [h] at hsig
  exact hsig

theorem ppuRegWrite_nmiConsumedAhead {s : State} (h : s.nmiConsumedAhead = false) (r : Nat) (b : Byte) :
    (s.ppuRegWrite r b).nmiConsumedAhead = false := by
  unfold ppuRegWrite
  split
  case h_1 =>
    unfold writeCtrl
    dsimp only
    split
    · refine setNmiRequest_nmiConsumedAhead ?_ _
      exact h
    · exact h
  case h_5 => unfold writeScroll; dsimp only; split <;> exact h
  case h_6 => unfold writeAddr; dsimp only; split <;> exact h
  case h_7 =>
    unfold writeData ppuWrite setChr
    dsimp only
    split
    · split <;> exact h
    · split <;> exact h
  all_goals exact h

/-- No bus write takes an edge ahead: only PPUCTRL drives the request. -/
theorem memWrite_nmiConsumedAhead {s : State} (h : s.nmiConsumedAhead = false) (a : Addr) (v : Byte) :
    (s.memWrite a v).nmiConsumedAhead = false := by
  unfold memWrite busWrite
  split; · exact h
  split; · exact ppuRegWrite_nmiConsumedAhead (s := s.setOpenBus v) h _ v
  split
  · unfold ioWrite writeStrobe
    dsimp only
    split; · exact h
    split
    · split <;> exact h
    · exact h
  split; · exact h
  split; · exact h
  unfold prgWrite
  split <;> exact h

end State

namespace TakesNoEdge

variable {s t : State}

theorem refl (s : State) : TakesNoEdge s s := ⟨⟨rfl, rfl, rfl, rfl, le_rfl⟩, id⟩

theorem trans {u : State} (h : TakesNoEdge s t) (k : TakesNoEdge t u) : TakesNoEdge s u where
  toHoldsDevices := h.toHoldsDevices.trans k.toHoldsDevices
  ahead := k.ahead ∘ h.ahead

/-! ### The bus -/

theorem memRead (h : TakesNoEdge s t) (a : Addr) : TakesNoEdge s (t.memRead a).2 :=
  h.trans ⟨⟨by simp, by simp, by simp, by simp, by simp⟩, by simp⟩

theorem memWrite (h : TakesNoEdge s t) (a : Addr) (v : Byte) : TakesNoEdge s (t.memWrite a v) := by
  refine h.trans ⟨⟨by simp, ?_, ?_, ?_, by simp⟩, fun ha => State.memWrite_nmiConsumedAhead ha a v⟩
  all_goals
    obtain ⟨_, _, _, _, p, _, _, _, _, _, e, hp, hticks, -⟩ := t.memWrite_changes a v
    rw [e]
  · exact (congrArg Ppu.dot hp :)
  · exact (congrArg Ppu.scanline hp :)
  · exact hticks

/-! ### Registers and latches -/

/-- An operation that leaves the latch of edges taken ahead as it is. -/
theorem of_same {u : State} (h : TakesNoEdge s t) (hd : HoldsDevices t u) (ha : u.nmiConsumedAhead = t.nmiConsumedAhead) :
    TakesNoEdge s u := h.trans ⟨hd, ha.trans⟩

theorem setRegs (h : TakesNoEdge s t) (g : Regs) : TakesNoEdge s { t with regs := g } :=
  h.of_same ⟨rfl, rfl, rfl, rfl, le_rfl⟩ rfl

theorem setA (h : TakesNoEdge s t) (v : Byte) : TakesNoEdge s (t.setA v) := h.setRegs _
theorem setX (h : TakesNoEdge s t) (v : Byte) : TakesNoEdge s (t.setX v) := h.setRegs _
theorem setY (h : TakesNoEdge s t) (v : Byte) : TakesNoEdge s (t.setY v) := h.setRegs _
theorem setSp (h : TakesNoEdge s t) (v : Byte) : TakesNoEdge s (t.setSp v) := h.setRegs _
theorem setP (h : TakesNoEdge s t) (v : Byte) : TakesNoEdge s (t.setP v) := h.setRegs _
theorem setPc (h : TakesNoEdge s t) (v : Addr) : TakesNoEdge s (t.setPc v) := h.setRegs _
theorem setNZOf (h : TakesNoEdge s t) (v : Byte) : TakesNoEdge s (t.setNZOf v) := h.setRegs _
theorem setAP (h : TakesNoEdge s t) (r : Byte × Byte) : TakesNoEdge s (t.setAP r) := h.setRegs _
theorem putFlag (h : TakesNoEdge s t) (f : Flag) (v : Bool) : TakesNoEdge s (t.putFlag f v) := h.setRegs _
theorem addCycles (h : TakesNoEdge s t) (n : Nat) : TakesNoEdge s (t.addCycles n) :=
  h.of_same ⟨rfl, rfl, rfl, rfl, Nat.le_add_right _ n⟩ rfl
theorem setOpenBus (h : TakesNoEdge s t) (v : Byte) : TakesNoEdge s (t.setOpenBus v) :=
  h.of_same ⟨rfl, rfl, rfl, rfl, le_rfl⟩ rfl
theorem halt (h : TakesNoEdge s t) : TakesNoEdge s t.halt := h.of_same ⟨rfl, rfl, rfl, rfl, le_rfl⟩ rfl
theorem drawMagic (h : TakesNoEdge s t) : TakesNoEdge s t.drawMagic.2 :=
  h.of_same ⟨rfl, rfl, rfl, rfl, le_rfl⟩ rfl
theorem sampleMask (h : TakesNoEdge s t) : TakesNoEdge s t.sampleMask :=
  h.of_same ⟨rfl, rfl, rfl, rfl, le_rfl⟩ rfl
theorem setDma (h : TakesNoEdge s t) (d : Dma) : TakesNoEdge s { t with dma := d } :=
  h.of_same ⟨rfl, rfl, rfl, rfl, le_rfl⟩ rfl

/-! ### Operands and the stack -/

theorem effAddr (h : TakesNoEdge s t) (o : Operand) : TakesNoEdge s (t.effAddr o).2 := by
  obtain ⟨v, e⟩ := State.effAddr_changes o t
  rw [e]
  exact h.setOpenBus v

theorem crossPenalty (h : TakesNoEdge s t) (o : Operand) (e : EffAddr) : TakesNoEdge s (t.crossPenalty o e) := by
  unfold State.crossPenalty
  split
  · exact (h.memRead _).addCycles 1
  · exact h

theorem dummyRead (h : TakesNoEdge s t) (o : Operand) (e : EffAddr) : TakesNoEdge s (t.dummyRead o e) := by
  unfold State.dummyRead
  split
  · exact h.memRead _
  · exact h

theorem readOperand (h : TakesNoEdge s t) (o : Operand) : TakesNoEdge s (t.readOperand o).2 := by
  cases o
  case acc | imm => exact h
  all_goals exact ((h.effAddr _).crossPenalty _ _).memRead _

theorem storeOperand (h : TakesNoEdge s t) (o : Operand) (v : Byte) : TakesNoEdge s (t.storeOperand o v) := by
  cases o
  case acc | imm => exact h
  all_goals exact ((h.effAddr _).dummyRead _ _).memWrite _ v

theorem writeBack (h : TakesNoEdge s t) (a : Addr) (old new : Byte) : TakesNoEdge s (t.writeBack a old new) := by
  rw [State.writeBack_eq]
  split
  · unfold State.memWriteSecond
    split
    · exact (h.memWrite a old).setOpenBus new
    · exact (h.memWrite a old).memWrite a new
  · exact h.memWrite a new

theorem modifyOperand (h : TakesNoEdge s t) (o : Operand) (f : Byte → Byte → Byte × Byte) :
    TakesNoEdge s (t.modifyOperand o f).2 := by
  cases o
  case imm => exact h
  case acc => exact (h.setA _).setP _
  all_goals exact ((((h.effAddr _).dummyRead _ _).memRead _).setP _).writeBack _ _ _

theorem modifyThen (h : TakesNoEdge s t) (f : Byte → Byte → Byte × Byte) (g : Byte → Byte → Byte) (o : Operand) :
    TakesNoEdge s (t.modifyThen f g o) := ((h.modifyOperand o f).setA _).setNZOf _

theorem storeHighAnd (h : TakesNoEdge s t) (o : Operand) (r : Byte) : TakesNoEdge s (t.storeHighAnd o r) :=
  ((h.effAddr o).memRead _).memWrite _ _

theorem logic (h : TakesNoEdge s t) (f : Byte → Byte → Byte) (o : Operand) : TakesNoEdge s (t.logic f o) :=
  ((h.readOperand o).setA _).setNZOf _

theorem compareWith (h : TakesNoEdge s t) (r : Byte) (o : Operand) : TakesNoEdge s (t.compareWith r o) :=
  (h.readOperand o).setP _

theorem branch (h : TakesNoEdge s t) (c : Bool) (off : Byte) : TakesNoEdge s (t.branch c off) := by
  unfold State.branch
  split
  · exact (h.addCycles _).setPc _
  · exact h

theorem readIndirect (h : TakesNoEdge s t) (a : Addr) : TakesNoEdge s (t.readIndirect a).2 := (h.memRead a).memRead _

theorem fetchByte (h : TakesNoEdge s t) : TakesNoEdge s t.fetchByte.2 := (h.memRead _).setPc _

theorem push (h : TakesNoEdge s t) (v : Byte) : TakesNoEdge s (t.push v) := (h.memWrite _ v).setSp _

theorem pushWord (h : TakesNoEdge s t) (w : Addr) : TakesNoEdge s (t.pushWord w) := (h.push _).push _

theorem pull (h : TakesNoEdge s t) : TakesNoEdge s t.pull.2 := (h.setSp _).memRead _

theorem pullWord (h : TakesNoEdge s t) : TakesNoEdge s t.pullWord.2 := h.pull.pull

theorem returnFromException (h : TakesNoEdge s t) : TakesNoEdge s t.returnFromException :=
  ((h.pull.setP _).pullWord).setPc _

/-! ### The processor call around an instruction -/

theorem fetchInstr (h : TakesNoEdge s t) : TakesNoEdge s t.fetchInstr.state := by
  have hop := h.memRead t.regs.pc
  unfold State.fetchInstr
  dsimp only
  split
  · exact hop
  · have hbase := (hop.setPc (t.regs.pc + 1)).addCycles (rowOf (t.memRead t.regs.pc).1).base
    split
    · exact hbase
    · exact hbase.fetchByte
    · exact hbase.fetchByte.fetchByte

theorem dmaMicroStep (h : TakesNoEdge s t) : TakesNoEdge s t.dmaMicroStep := by
  unfold State.dmaMicroStep
  dsimp only
  split
  · exact (h.setDma _).addCycles 1
  · have hcopy := ((h.memRead (join t.dma.page t.dma.offset)).memWrite 0x2004
      (t.memRead (join t.dma.page t.dma.offset)).1).addCycles 2
    split <;> exact hcopy.setDma _

theorem refetchJam (h : TakesNoEdge s t) : TakesNoEdge s t.refetchJam := by
  obtain e | e := refetchJam_cases t <;> rw [e]
  · exact h
  · exact h.memRead _

end TakesNoEdge

/-! ## Instructions -/

/-- An OPEN opcode halts, or is refused, or does what its meaning does (R770). -/
theorem openOpcode_nextHas {P : State → Prop} (m : String) {s : State} {effect : Result} (hhalt : P s.halt)
    (h : nextHas P effect) : nextHas P (openOpcode m s effect) := by
  unfold openOpcode
  split
  case h_1 => trivial
  case h_2 => exact hhalt
  case h_3 => exact h

theorem execArr_takesNoEdge (v : Byte) (s : State) : nextHas (TakesNoEdge s) (execArr v s) := by
  refine openOpcode_nextHas _ (TakesNoEdge.refl s).halt ?_
  split
  case isTrue => trivial
  case isFalse => exact (TakesNoEdge.refl s).setAP _

theorem execJsr_takesNoEdge (w : Addr) (s : State) : nextHas (TakesNoEdge s) (execJsr w s) := by
  unfold execJsr
  split
  · exact ((TakesNoEdge.refl s).pushWord _).fetchByte.setPc _
  · exact ((TakesNoEdge.refl s).fetchByte.pushWord _).setPc _

/-- Every instruction but BRK, which selects a vector, takes no edge ahead. -/
theorem exec_takesNoEdge {i : Instr} (hi : ∀ v, i ≠ .brk v) (s : State) : nextHas (TakesNoEdge s) (exec i s) := by
  have h := TakesNoEdge.refl s
  cases i
  case brk v => exact absurd rfl (hi v)
  -- loads, stores, transfers, counts
  case lda o => exact ((h.readOperand o).setA _).setNZOf _
  case ldx o => exact ((h.readOperand o).setX _).setNZOf _
  case ldy o => exact ((h.readOperand o).setY _).setNZOf _
  case lax o => exact (((h.readOperand o).setA _).setX _).setNZOf _
  case sta o | stx o | sty o | sax o => exact h.storeOperand o _
  case sha o | shx o | shy o => exact h.storeHighAnd o _
  case tas o => exact (h.setSp _).storeHighAnd o _
  case txa | tya => exact (h.setA _).setNZOf _
  case tax | tsx | inx | dex => exact (h.setX _).setNZOf _
  case tay | iny | dey => exact (h.setY _).setNZOf _
  case txs => exact h.setSp _
  -- arithmetic, logic, comparison
  case adc o | sbc o => exact (h.readOperand o).setAP _
  case sbcUnofficial => exact h.setAP _
  case and o | ora o | eor o => exact h.logic _ o
  case bit o => exact (h.readOperand o).setP _
  case cmp o | cpx o | cpy o => exact h.compareWith _ o
  -- read-modify-write
  case inc o | dec o | asl o | lsr o | rol o | ror o => exact h.modifyOperand o _
  case slo o | rla o | sre o => exact h.modifyThen _ _ o
  case dcp o => exact (h.modifyOperand o _).setP _
  case isb o | rra o => exact (h.modifyOperand o _).setAP _
  -- control flow
  case bpl | bmi | bvc | bvs | bcc | bcs | bne | beq => exact h.branch _ _
  case jmpAbs w => exact h.setPc w
  case jmpInd w => exact (h.readIndirect w).setPc _
  case jsr w => exact execJsr_takesNoEdge w s
  case rts => exact h.pullWord.setPc _
  case rti => exact h.returnFromException
  -- stack, flags, no operation, halt
  case pha | php => exact h.push _
  case pla => exact (h.pull.setA _).setNZOf _
  case plp => exact h.pull.setP _
  case clc | sec | cli | sei | cld | sed | clv => exact h.putFlag _ _
  case nop | nopImplied | nopImmediate => exact h
  case nopMemory o => exact h.readOperand o
  case jam => exact h.halt
  -- OPEN opcodes
  case anc | alr => exact openOpcode_nextHas _ h.halt (h.setAP _)
  case arr v => exact execArr_takesNoEdge v s
  case xaa => exact openOpcode_nextHas _ h.halt ((h.drawMagic.setA _).setNZOf _)
  case lxa => exact openOpcode_nextHas _ h.halt (((h.drawMagic.setA _).setX _).setNZOf _)
  case las o => exact openOpcode_nextHas _ h.halt (((((h.readOperand o).setA _).setX _).setSp _).setNZOf _)
  case axs => exact openOpcode_nextHas _ h.halt ((h.setX _).setP _)

/-! ## The processor call -/

/-- A processor call leaves the devices where they stood; an NMI edge it takes ahead is due within the hijack window, and the
call has counted the 7 cycles of its sequence (R820, R824, R640). -/
structure CallFrame (s t : State) : Prop extends HoldsDevices s t where
  ahead : s.nmiConsumedAhead = false → t.nmiConsumedAhead = true →
    s.cycles + 7 ≤ t.cycles ∧ t.nmiEdgeWithin s.params.hijackWindow = true

theorem TakesNoEdge.callFrame {s t : State} (h : TakesNoEdge s t) : CallFrame s t where
  toHoldsDevices := h.toHoldsDevices
  ahead hs ht := by simp [h.ahead hs] at ht

/-- Entering a handler leaves the devices alone. -/
theorem entersHandler.devices {s t : State} {b : Bool} {vector : Addr} (h : entersHandler s t b vector) :
    t.lastSync = s.lastSync ∧ t.ppu = s.ppu ∧ t.apu = s.apu := by
  obtain ⟨-, -, -, -, -, -, -, -, -, -, hsame⟩ := h
  exact ⟨congrArg (·.lastSync) hsame, congrArg (·.ppu) hsame, congrArg (·.apu) hsame⟩

theorem entersHandler.holdsDevices {s t : State} {b : Bool} {vector : Addr} (h : entersHandler s t b vector)
    (hc : s.cycles ≤ t.cycles) : HoldsDevices s t := by
  obtain ⟨hsync, hppu, hapu⟩ := h.devices
  exact ⟨hsync, congrArg _ hppu, congrArg _ hppu, congrArg _ hapu, hc⟩

/-- Entering through a selected vector takes an edge ahead only where it is due within the window (R821, R824). -/
theorem entersSelected.edge {s t : State} {b : Bool} (h : entersSelected s t b) (hs : s.nmiConsumedAhead = false)
    (ht : t.nmiConsumedAhead = true) : t.nmiEdgeWithin s.params.hijackWindow = true := by
  obtain ⟨_, hh⟩ := entersHandler_of_entersSelected h
  obtain ⟨-, hppu, -⟩ := hh.devices
  obtain ⟨pending, -, own⟩ := h
  have hsame : t.nmiEdgeWithin s.params.hijackWindow = s.nmiEdgeWithin s.params.hijackWindow := by
    unfold State.nmiEdgeWithin
    rw [hppu]
  rw [hsame]
  by_contra he
  cases hn : s.nmiPending
  case true => simp [(pending hn).2.2, hs] at ht
  case false => simp [(own hn (Bool.eq_false_iff.mpr he)).2.2, hs] at ht

/-- A sequence through a selected vector that has counted its 7 cycles. -/
theorem entersSelected.callFrame {s t : State} {b : Bool} (h : entersSelected s t b) (hc : s.cycles + 7 ≤ t.cycles) :
    CallFrame s t := by
  obtain ⟨_, hh⟩ := entersHandler_of_entersSelected h
  exact ⟨hh.holdsDevices (by omega), fun hs ht => ⟨hc, h.edge hs ht⟩⟩

theorem takeException_nmi_callFrame (s : State) : CallFrame s (s.takeException .nmi) := by
  obtain ⟨⟨hh, -, hahead, hc⟩, -⟩ := interruptsEnterTheirHandler s
  exact ⟨hh.holdsDevices (by omega), fun hs ht => by simp [hahead, hs] at ht⟩

theorem takeException_irq_callFrame (s : State) : CallFrame s (s.takeException .irq) := by
  obtain ⟨-, hsel, hc⟩ := interruptsEnterTheirHandler s
  exact hsel.callFrame (by omega)

/-- The call's last writes, to the mask sample and to the host, are none of the devices'. -/
theorem CallFrame.latches {s t : State} (h : CallFrame s t) (m : Bool) (out : List HostEvent) :
    CallFrame s { t with irqMaskSample := m, out := out } :=
  ⟨⟨h.lastSync, h.dot, h.scanline, h.ticks, h.cycles⟩, h.ahead⟩

theorem CallFrame.finishInstr {s u : State} (h : CallFrame s u) (before : State) (i : Instr) :
    CallFrame s (before.finishInstr i u) := by
  unfold State.finishInstr
  dsimp only
  split
  · exact h.latches _ u.out
  · exact h.latches _ _

/-! ### BRK -/

/-- What is fetched is the instruction of the opcode byte read at PC (R330). -/
theorem fetchInstr_instr (s : State) : ∃ b1 b2, s.fetchInstr.instr = instrOf (s.memRead s.regs.pc).1 b1 b2 := by
  unfold State.fetchInstr
  dsimp only
  split
  · exact ⟨_, _, rfl⟩
  · split <;> exact ⟨_, _, rfl⟩

/-- BRK's opcode byte is $00, so its fetch counts 7 cycles (R320, R640). -/
theorem fetchInstr_brk_cycles {s : State} {v : Byte} (h : s.fetchInstr.instr = .brk v) :
    s.fetchInstr.state.cycles = s.cycles + 7 := by
  have hop : (s.memRead s.regs.pc).1 = 0 := by
    obtain ⟨b1, b2, hi⟩ := fetchInstr_instr s
    have hcode := (instrOf_opcode_and_bytes (s.memRead s.regs.pc).1 b1 b2).1
    rw [← hi, h] at hcode
    exact BitVec.eq_of_toNat_eq (Option.some.inj hcode).symm
  have hrow : rowOf 0 = Row.brk := rfl
  have hparks : ¬ parks Row.brk s.params = true := Bool.false_ne_true
  unfold State.fetchInstr
  dsimp only
  rw [hop, hrow, if_neg hparks]
  exact congrArg (· + 7) (s.memRead_cycles s.regs.pc)

/-- BRK's sequence ends a call that has counted its base cycles. -/
theorem exec_brk_callFrame {s u : State} {v : Byte} (hi : s.fetchInstr.instr = .brk v)
    (hu : exec (.brk v) s.fetchInstr.state = .next u) : CallFrame s u := by
  have hf := (TakesNoEdge.refl s).fetchInstr.setPc (s.fetchInstr.state.regs.pc + 1)
  have hp : s.fetchInstr.state.params = s.params := State.params_of_fixedPart s.fetchInstr_fixedPart
  obtain ⟨t, ht, hsel, hc⟩ := brkEntersTheSelectedHandler v s.fetchInstr.state
  obtain rfl := Host.Outcome.next.inj (ht.symm.trans hu)
  have hcycles : t.cycles = s.cycles + 7 := hc.trans (fetchInstr_brk_cycles hi)
  obtain ⟨_, hh⟩ := entersHandler_of_entersSelected hsel
  exact ⟨hf.toHoldsDevices.trans (hh.holdsDevices hc.ge), fun hs ht => ⟨hcycles.ge, hp ▸ hsel.edge (hf.ahead hs) ht⟩⟩

/-- An executed instruction is BRK, or takes no edge ahead. -/
theorem executeInstruction_callFrame {s t : State} (h : s.executeInstruction = .next t) : CallFrame s t := by
  obtain ⟨u, hu, rfl⟩ := executeInstruction_next h
  refine CallFrame.finishInstr ?_ s _
  by_cases hb : ∃ v, s.fetchInstr.instr = .brk v
  case pos =>
    obtain ⟨v, hv⟩ := hb
    exact exec_brk_callFrame hv (hv ▸ hu)
  case neg =>
    have hx := (exec_takesNoEdge (fun v hv => hb ⟨v, hv⟩) s.fetchInstr.state).of_next hu
    exact ((TakesNoEdge.refl s).fetchInstr.trans hx).callFrame

theorem processorCall_callFrame {s t : State} (h : s.processorCall = .next t) : CallFrame s t := by
  obtain ⟨-, hc⟩ := processorCall_next h
  obtain ⟨-, rfl⟩ | ⟨-, -, rfl⟩ | ⟨-, -, -, hx⟩ | ⟨-, -, -, -, rfl⟩ | ⟨-, -, -, -, -, rfl⟩ | ⟨-, -, -, -, -, hx⟩ := hc
  · exact (TakesNoEdge.refl s).refetchJam.callFrame
  · exact (TakesNoEdge.refl s).dmaMicroStep.sampleMask.callFrame
  · obtain ⟨hd, ha⟩ := executeInstruction_callFrame hx
    exact ⟨⟨hd.lastSync, hd.dot, hd.scanline, hd.ticks, hd.cycles⟩, ha⟩
  · exact (takeException_nmi_callFrame s).latches _ _
  · exact (takeException_irq_callFrame s).latches _ _
  · exact executeInstruction_callFrame hx

/-- A step is such a call, caught up (R862). -/
theorem step_callFrame {s t : State} (h : step s = .next t) : ∃ u, CallFrame s u ∧ t = u.catchUp := by
  obtain ⟨u, hu, rfl⟩ := step_next h
  obtain ⟨hd, ha⟩ := processorCall_callFrame hu
  exact ⟨u, ⟨⟨hd.lastSync, hd.dot, hd.scanline, hd.ticks, hd.cycles⟩, ha⟩, rfl⟩

/-! ## The catch-up -/

namespace State

/-- The sequencer and the timers leave the tick count to the mixer (R1001). -/
theorem clockUnits_ticks (a : Apu) : a.clockUnits.ticks = a.ticks := by
  have hframe : a.frameStep.ticks = a.ticks := by
    unfold Apu.frameStep
    dsimp only
    split; · rfl
    split; · rfl
    split
    · split; · rfl
      split <;> rfl
    split; · rfl
    split; · rfl
    split <;> rfl
  have hdelay (b : Apu) : b.frameDelayStep.ticks = b.ticks := by
    unfold Apu.frameDelayStep
    dsimp only
    split; · rfl
    split
    · split <;> rfl
    · rfl
  exact (hdelay _).trans hframe

/-- The DMC's reader counts no tick; of the picture unit it changes what a bus read can (R1046). -/
theorem dmcReader_changes (s : State) : ∃ v rb vb w ob ap pad, s.dmcReader =
    { s with
      openBus := ob, ppu := { s.ppu with v := v, readBuffer := rb, vblank := vb, w := w }, apu := ap, pad := pad } ∧
    ap.ticks = s.apu.ticks := by
  unfold dmcReader
  split
  · exact ⟨s.ppu.v, s.ppu.readBuffer, s.ppu.vblank, s.ppu.w, s.openBus, s.apu, s.pad, rfl, rfl⟩
  · obtain ⟨v, rb, vb, w, fi, pad, h⟩ := s.memRead_changes s.apu.dmc.curAddr
    refine ⟨v, rb, vb, w, (s.memRead s.apu.dmc.curAddr).1, ?_⟩
    dsimp only
    rw [h]
    exact ⟨_, pad, rfl, rfl⟩

/-- A sound tick counts itself, and changes besides the sound unit what its reader can (R1001). -/
theorem apuTick_changes (s : State) : ∃ v rb vb w ob ap pad out, s.apuTick =
    { s with
      openBus := ob, ppu := { s.ppu with v := v, readBuffer := rb, vblank := vb, w := w }, apu := ap, pad := pad, out := out } ∧
    ap.ticks = s.apu.ticks + 1 := by
  obtain ⟨v, rb, vb, w, ob, ap, pad, h, hticks⟩ := (s.setApu s.apu.clockUnits).dmcReader_changes
  unfold apuTick
  rw [h]
  exact ⟨v, rb, vb, w, ob, _, pad, _, rfl, congrArg (· + 1) (hticks.trans (clockUnits_ticks s.apu))⟩

theorem apuTick_inFrame {s : State} (h : s.ppu.InFrame) : s.apuTick.ppu.InFrame := by
  obtain ⟨_, _, _, _, _, _, _, _, e, -⟩ := s.apuTick_changes
  rw [e]
  exact h

theorem apuTick_position (s : State) : s.apuTick.ppu.position = s.ppu.position := by
  obtain ⟨_, _, _, _, _, _, _, _, e, -⟩ := s.apuTick_changes
  rw [e]
  rfl

theorem apuTick_ticks (s : State) : s.apuTick.apu.ticks = s.apu.ticks + 1 := by
  obtain ⟨_, _, _, _, _, _, _, _, e, h⟩ := s.apuTick_changes
  rw [e]
  exact h

/-- A replayed cycle is three dots and one sound tick (R860). -/
theorem cycleTick_eq (s : State) : s.cycleTick = (ppuTick^[3] s).apuTick := rfl

theorem cycleTick_inFrame {s : State} (h : s.ppu.InFrame) : s.cycleTick.ppu.InFrame :=
  apuTick_inFrame (iterate_ppuTick_inFrame h 3)

theorem cycleTick_position {s : State} (h : s.ppu.InFrame) : s.cycleTick.ppu.position = (s.ppu.position + 3) % 89342 := by
  rw [cycleTick_eq, apuTick_position, iterate_ppuTick_position h]

theorem cycleTick_ticks (s : State) : s.cycleTick.apu.ticks = s.apu.ticks + 1 := by
  rw [cycleTick, apuTick_ticks, ppuTick_apu, ppuTick_apu, ppuTick_apu]

/-- So `n` of them are `3 * n` dots (R902). -/
theorem replay_position (n : Nat) {s : State} (h : s.ppu.InFrame) :
    (replay n s).ppu.position = (s.ppu.position + 3 * n) % 89342 := by
  induction n generalizing s with
  | zero => rw [replay, Nat.mul_zero, Nat.add_zero, Nat.mod_eq_of_lt h.position_lt]
  | succ n ih =>
    rw [replay, ih (cycleTick_inFrame h), cycleTick_position h]
    omega

/-- And `n` sound ticks (R1001). -/
theorem replay_ticks (n : Nat) (s : State) : (replay n s).apu.ticks = s.apu.ticks + n := by
  induction n generalizing s with
  | zero => rfl
  | succ n ih =>
    rw [replay, ih, cycleTick_ticks]
    omega

theorem catchUp_cycles (s : State) : s.catchUp.cycles = s.cycles := (catchUp_lastSync s).symm

end State

/-- Settles O41: the call holds the devices, `step_callFrame`, and the catch-up replays the cycles since the last one. -/
theorem devicesFollowTheCycleCounter : Obligations.DevicesFollowTheCycleCounter := by
  intro s t hd hs hsync h
  obtain ⟨u, hu, rfl⟩ := step_callFrame h
  have hframe : u.ppu.InFrame := by
    rw [Ppu.InFrame, hu.dot, hu.scanline]
    exact ⟨hd, hs⟩
  have hpos : u.ppu.position = s.ppu.position := by
    rw [Ppu.position, hu.dot, hu.scanline]
    rfl
  rw [State.catchUp_cycles]
  refine ⟨hu.cycles, rfl, ?_, ?_⟩
  · rw [← hpos, ← hu.lastSync]
    exact State.replay_position _ hframe
  · rw [← hu.ticks, ← hu.lastSync]
    exact State.replay_ticks _ u

/-! ## The edge taken ahead -/

namespace State

/-- An edge that has been taken ahead will come within the next `k` ticks (R824). -/
def AwaitsEdge (k : Nat) (s : State) : Prop :=
  s.nmiConsumedAhead = true → s.ppu.ctrl.getLsbD 7 = true ∧ s.ppu.nmiRequest = false ∧ s.ppu.dotsToVblank < k

theorem AwaitsEdge.zero {s : State} (h : s.AwaitsEdge 0) : s.nmiConsumedAhead = false :=
  Bool.eq_false_iff.mpr fun ha => Nat.not_lt_zero _ (h ha).2.2

/-- A tick away from the start of vertical blank comes one dot nearer to it. -/
theorem dotsToVblank_ppuTick {s : State} (h : s.ppu.InFrame) (hv : s.ppu.position ≠ 82182) :
    s.ppuTick.ppu.dotsToVblank + 1 = s.ppu.dotsToVblank := by
  have := h.position_lt
  rw [Ppu.dotsToVblank, ppuTick_position h, Ppu.dotsToVblank]
  omega

/-- A tick absorbs the edge, or brings it one dot nearer. -/
theorem AwaitsEdge.ppuTick {k : Nat} {s : State} (h : s.AwaitsEdge (k + 1)) (hf : s.ppu.InFrame) :
    s.ppuTick.AwaitsEdge k := by
  intro ha
  obtain ⟨hahead, hnot⟩ := (ppuTick_nmiConsumedAhead hf).mp ha
  obtain ⟨hc, hq, hdots⟩ := h hahead
  have hv : s.ppu.position ≠ 82182 := fun hp => hnot ⟨⟨hp, hc⟩, hq⟩
  have hlow : s.ppuTick.ppu.nmiRequest = false := Bool.eq_false_iff.mpr fun hr => hv ((ppuTick_nmiRequest hf hq).mp hr).1
  have hnear := dotsToVblank_ppuTick hf hv
  exact ⟨by rwa [ppuTick_ctrl], hlow, by omega⟩

/-- A sound tick touches nothing of it. -/
theorem AwaitsEdge.apuTick {k : Nat} {s : State} (h : s.AwaitsEdge k) : s.apuTick.AwaitsEdge k := by
  obtain ⟨_, _, _, _, _, _, _, _, e, -⟩ := s.apuTick_changes
  rw [e]
  exact h

theorem AwaitsEdge.cycleTick {k : Nat} {s : State} (h : s.AwaitsEdge (k + 3)) (hf : s.ppu.InFrame) :
    s.cycleTick.AwaitsEdge k :=
  have h1 := h.ppuTick hf
  have h2 := h1.ppuTick (ppuTick_inFrame hf)
  (h2.ppuTick (ppuTick_inFrame (ppuTick_inFrame hf))).apuTick

theorem AwaitsEdge.replay {n : Nat} {s : State} (h : s.AwaitsEdge (3 * n)) (hf : s.ppu.InFrame) :
    (replay n s).AwaitsEdge 0 := by
  induction n generalizing s with
  | zero => exact h
  | succ n ih => exact ih (AwaitsEdge.cycleTick h hf) (cycleTick_inFrame hf)

end State

/-- Settles O34: an edge a call takes ahead is due within fewer than 21 dots and the call counts 7 cycles, so the catch-up
reaches it. -/
theorem consumedEdgeNeverOutlivesItsCall : Obligations.ConsumedEdgeNeverOutlivesItsCall := by
  intro s t hinv hwindow hahead hlevel h
  obtain ⟨u, hu, rfl⟩ := step_callFrame h
  have hframe : u.ppu.InFrame := by
    rw [Ppu.InFrame, hu.dot, hu.scanline]
    exact ⟨hinv.ppu.dot, hinv.ppu.scanline⟩
  have hdue : u.AwaitsEdge (3 * (u.cycles - u.lastSync)) := by
    intro ha
    obtain ⟨hcycles, hedge⟩ := hu.ahead hahead ha
    obtain ⟨hc, hq, hdots⟩ := (State.nmiEdgeWithin_iff u _).mp hedge
    have hsync := hu.lastSync
    exact ⟨hc, hq, by omega⟩
  exact (hdue.replay hframe).zero

end Sys2Proof.Machine
end

section
/-! Sprite DMA (R840 to R844): the alignment cycles, then 256 copies, each a bus read and a write of OAMDATA. -/

namespace Sys2Proof.Machine
namespace State

/-! ## The start and the alignment -/

/-- A write of $4014 starts a transfer, its alignment by the parity of the cycle counter (R840). -/
theorem memWrite_dmaPage (s : State) (page : Byte) : s.memWrite 0x4014 page =
    { s with openBus := page, dma := ⟨true, page, 0, 1 + s.cycles % 2⟩ } := rfl

/-- The transfer of a page, aligned: what stands before its first copy. -/
def dmaAligned (page : Byte) (s : State) : State :=
  { s with openBus := page, dma := ⟨true, page, 0, 0⟩, cycles := s.cycles + (1 + s.cycles % 2) }

/-- An alignment step takes a cycle (R841). -/
theorem dmaMicroStep_align {s : State} (h : s.dma.align ≠ 0) : s.dmaMicroStep =
    { s with dma := { s.dma with align := s.dma.align - 1 }, cycles := s.cycles + 1 } := by
  rw [dmaMicroStep, if_pos h]
  rfl

/-- The first steps of a transfer only count the alignment down. -/
theorem iterate_dmaMicroStep_align (s : State) {k : Nat} (h : k ≤ s.dma.align) : dmaMicroStep^[k] s =
    { s with dma := { s.dma with align := s.dma.align - k }, cycles := s.cycles + k } := by
  induction k with
  | zero => rfl
  | succ k ih =>
    have hk := ih (by omega)
    rw [Function.iterate_succ_apply', hk, dmaMicroStep_align (by dsimp only; omega), Nat.add_assoc, Nat.sub_sub]

/-- After its alignment steps a transfer is aligned. -/
theorem iterate_dmaMicroStep_aligned (page : Byte) (s : State) :
    dmaMicroStep^[1 + s.cycles % 2] (s.memWrite 0x4014 page) = s.dmaAligned page := by
  have h := iterate_dmaMicroStep_align (s.memWrite 0x4014 page) (k := 1 + s.cycles % 2) le_rfl
  rw [memWrite_dmaPage] at h ⊢
  dsimp only at h
  rwa [Nat.sub_self] at h

/-! ## The copies -/

/-- A write of OAMDATA puts the byte at OAMADDR and moves on (R925). -/
theorem memWrite_oamData (s : State) (v : Byte) : s.memWrite 0x2004 v =
    { s with
      openBus := v
      ppu := { s.ppu with oam := s.ppu.oam.write s.ppu.oamAddr.toNat v, oamAddr := s.ppu.oamAddr + 1 } } := rfl

/-- A copy reads the next byte of the page and writes it to OAMDATA, in two cycles; the 256th ends the transfer (R841, R844). -/
theorem dmaMicroStep_copy {s : State} (h : s.dma.align = 0) : s.dmaMicroStep =
    let r := s.memRead (join s.dma.page s.dma.offset)
    { r.2 with
      openBus := r.1, cycles := r.2.cycles + 2
      ppu := { r.2.ppu with oam := r.2.ppu.oam.write r.2.ppu.oamAddr.toNat r.1, oamAddr := r.2.ppu.oamAddr + 1 }
      dma := { s.dma with active := s.dma.active && decide (s.dma.offset ≠ 0xFF), offset := s.dma.offset + 1 } } := by
  unfold dmaMicroStep
  rw [if_neg (not_not_intro h)]
  dsimp only
  rw [memWrite_oamData]
  split
  case isTrue ho =>
    simp only [addCycles, memRead_dma, ho, ne_eq, not_true_eq_false, decide_false, Bool.and_false]
    rfl
  case isFalse ho => simp only [addCycles, memRead_dma, ne_eq, ho, not_false_eq_true, decide_true, Bool.and_true]

theorem ramByte_congr {s t : State} (hram : t.ram = s.ram) (hparams : t.params = s.params) (i : Nat) :
    t.ramByte i = s.ramByte i := by
  unfold ramByte
  rw [hram, hparams]

/-- OAM after a byte of it is written. -/
theorem oamByte_of_write {s t : State} {i : Byte} {v : Byte} (hoam : t.ppu.oam = s.ppu.oam.write i.toNat v)
    (hparams : t.params = s.params) (j : Byte) : t.oamByte j = if j = i then v else s.oamByte j := by
  unfold oamByte
  rw [hoam, hparams]
  split
  case isTrue h => rw [h, Memory.read?_write_same, Option.getD_some]
  case isFalse h => rw [Memory.read?_write_other _ _ fun he => h (BitVec.eq_of_toNat_eq he)]

/-- So a copy puts the byte read at OAMADDR and leaves the rest of OAM alone. -/
theorem dmaMicroStep_copy_oamByte {s : State} (h : s.dma.align = 0) (j : Byte) : s.dmaMicroStep.oamByte j =
    if j = s.ppu.oamAddr then (s.memRead (join s.dma.page s.dma.offset)).1 else s.oamByte j := by
  rw [dmaMicroStep_copy h]
  refine oamByte_of_write ?_ ?_ j
  · dsimp only
    rw [memRead_ppu_oam, memRead_ppu_oamAddr]
  · exact memRead_params s _

/-- `t` is `s` with `n` bytes of a page copied, in two cycles each: the transfer's state after them, and what stands in OAM when
the page is one of work RAM. -/
structure Copied (s : State) (page : Byte) (n : Nat) (t : State) : Prop where
  dma : t.dma = ⟨decide (n < 256), page, BitVec.ofNat 8 n, 0⟩
  cycles : t.cycles = s.cycles + 2 * n
  oamAddr : t.ppu.oamAddr = s.ppu.oamAddr + BitVec.ofNat 8 n
  regs : t.regs = s.regs
  ram : t.ram = s.ram
  sram : t.sram = s.sram
  params : t.params = s.params
  oam : page.toNat ≤ 0x1F → ∀ i, i < n →
    t.oamByte (s.ppu.oamAddr + BitVec.ofNat 8 i) = s.ramByte ((page.toNat * 256 + i) % 0x800)

theorem Copied.zero {s : State} {page : Byte} (h : s.dma = ⟨true, page, 0, 0⟩) : Copied s page 0 s where
  dma := h
  cycles := rfl
  oamAddr := (BitVec.add_zero _).symm
  regs := rfl
  ram := rfl
  sram := rfl
  params := rfl
  oam _ i hi := absurd hi (Nat.not_lt_zero i)

/-- Entries of OAM at different distances from OAMADDR are different. -/
theorem add_ofNat_inj {a : Byte} {i j : Nat} (hi : i < 256) (hj : j < 256) :
    a + BitVec.ofNat 8 i = a + BitVec.ofNat 8 j ↔ i = j := by
  constructor
  · intro h
    bv_omega
  · rintro rfl
    rfl

/-- Each step of the second part of a transfer copies one byte more. -/
theorem Copied.step {s t : State} {page : Byte} {n : Nat} (h : Copied s page n t) (hn : n < 256) :
    Copied s page (n + 1) t.dmaMicroStep := by
  have hvalue : page.toNat ≤ 0x1F →
      (t.memRead (join page (BitVec.ofNat 8 n))).1 = s.ramByte ((page.toNat * 256 + n) % 0x800) := fun hpage => by
    have haddr : (join page (BitVec.ofNat 8 n)).toNat = page.toNat * 256 + n := by
      rw [toNat_join, BitVec.toNat_ofNat]
      omega
    rw [memRead_work t (by omega), haddr, ramByte_congr h.ram h.params]
  have halign : t.dma.align = 0 := congrArg Dma.align h.dma
  have hstep := dmaMicroStep_copy halign
  rw [h.dma] at hstep
  dsimp only at hstep
  refine ⟨?dma, ?cycles, ?oamAddr, ?regs, ?ram, ?sram, ?params, ?oam⟩
  case dma =>
    have hactive : (decide (n < 256) && decide (BitVec.ofNat 8 n ≠ 0xFF)) = decide (n + 1 < 256) := by
      rw [← Bool.decide_and, decide_eq_decide]
      bv_omega
    rw [hstep, hactive, BitVec.ofNat_add]
    rfl
  case cycles =>
    rw [hstep, memRead_cycles, h.cycles]
    rfl
  case oamAddr =>
    rw [hstep, memRead_ppu_oamAddr, h.oamAddr, BitVec.ofNat_add, ← BitVec.add_assoc]
    rfl
  case regs => rw [hstep, memRead_regs, h.regs]
  case ram => rw [hstep, memRead_ram, h.ram]
  case sram => rw [hstep, memRead_sram, h.sram]
  case params => rw [hstep, memRead_params, h.params]
  case oam =>
    intro hpage i hi
    rw [dmaMicroStep_copy_oamByte halign, h.oamAddr, h.dma, hvalue hpage]
    by_cases hin : i = n
    · rw [if_pos (congrArg _ (congrArg _ hin)), hin]
    · rw [if_neg fun he => hin ((add_ofNat_inj (by omega) hn).mp he)]
      exact h.oam hpage i (by omega)

/-- So `n` steps from an aligned transfer copy its first `n` bytes. -/
theorem Copied.iterate {s : State} {page : Byte} (h : s.dma = ⟨true, page, 0, 0⟩) {n : Nat} (hn : n ≤ 256) :
    Copied s page n (dmaMicroStep^[n] s) := by
  induction n with
  | zero => exact Copied.zero h
  | succ n ih =>
    rw [Function.iterate_succ_apply']
    exact (ih (by omega)).step (by omega)

end State

/-- Settles O38: `1 + cycles % 2` alignment steps, `iterate_dmaMicroStep_aligned`, then 256 copies, `Copied.iterate`. -/
theorem spriteDmaCopiesAPage : Obligations.SpriteDmaCopiesAPage := by
  intro page s start calls t
  have hcopied {n : Nat} (hn : n ≤ 256) :
      State.Copied (s.dmaAligned page) page n (State.dmaMicroStep^[n + (1 + s.cycles % 2)] start) := by
    rw [Function.iterate_add_apply, State.iterate_dmaMicroStep_aligned]
    exact State.Copied.iterate rfl hn
  have hend : State.Copied (s.dmaAligned page) page 256 t := by
    have h := hcopied le_rfl
    rwa [← Nat.add_assoc] at h
  refine ⟨fun k hk => ?active, congrArg Dma.active hend.dma, ?cycles, ?oamAddr, hend.regs, hend.ram, hend.sram,
    fun hpage i => ?oam⟩
  case active =>
    by_cases hal : k ≤ 1 + s.cycles % 2
    · rw [State.iterate_dmaMicroStep_align start hal]
      rfl
    · obtain ⟨n, rfl⟩ := Nat.exists_eq_add_of_le' (Nat.le_of_not_le hal)
      have hn : n < 256 := by omega
      rw [(hcopied hn.le).dma]
      exact decide_eq_true hn
  case cycles =>
    have haligned : (s.dmaAligned page).cycles = s.cycles + (1 + s.cycles % 2) := rfl
    rw [hend.cycles, haligned]
    omega
  case oamAddr => exact hend.oamAddr.trans (BitVec.add_zero _)
  case oam =>
    have h := hend.oam hpage i.toNat i.isLt
    rwa [BitVec.ofNat_toNat, BitVec.setWidth_eq] at h

end Sys2Proof.Machine
end

section
/-! The frame and vertical blank (R900 to R902, R950 to R952): how often a dot signals a complete frame, and what it does to the
flags of PPUSTATUS and to the NMI request. -/

namespace Sys2Proof.Machine
namespace State

/-! ## What is delivered to the host -/

@[simp] theorem setNmiRequest_out (s : State) (r : Bool) : (s.setNmiRequest r).out = s.out := by
  unfold setNmiRequest onNmiEdge
  dsimp only
  split
  · split <;> rfl
  · rfl

@[simp] theorem preRender_out (s : State) (sl d : Nat) : (s.preRender sl d).out = s.out := by
  unfold preRender
  split <;> simp

@[simp] theorem renderBackground_out (s : State) (sl d : Nat) (r : Bool) : (s.renderBackground sl d r).out = s.out := by
  obtain ⟨_, _, _, _, _, _, _, _, _, h⟩ := s.renderBackground_changes sl d r
  rw [h, setPpu_out]

theorem vblankStart_out (s : State) (sl d : Nat) : (s.vblankStart sl d).out =
    s.out ++ if sl = 241 ∧ d = 1 then [.frameReady] else [] := by
  unfold vblankStart
  dsimp only
  split
  · rw [emit_out]
    split <;> simp
  · simp

/-- The event of a pixel whose palette entry has the address `a` (R965). -/
def pixelEvent (s : State) (px py a : Nat) : HostEvent :=
  .setPixel px py ((s.ppuRead a).setWidth 6) (Config.rgbPalette ((s.ppuRead a).setWidth 6))

theorem renderPixel_out (s : State) (sl d : Nat) : (s.renderPixel sl d).out =
    s.out ++ if sl ≤ 239 ∧ 1 ≤ d ∧ d ≤ 256 then
      [s.pixelEvent (d - 1) sl (pixelAddr (s.backgroundPixel (d - 1)) (s.spritePixel (d - 1) sl))] else [] := by
  unfold renderPixel
  split
  · rfl
  · simp

theorem advanceDot_out (s : State) (sl d : Nat) : (s.advanceDot sl d).out =
    s.out ++ if sl = 261 ∧ d = 340 then [.frameComplete] else [] := by
  unfold advanceDot
  by_cases hd : d = 340 <;> by_cases hs : sl = 261 <;> simp [hd, hs]

/-- The frame-complete signal is raised at the last dot of the frame alone (R901). -/
theorem ppuTick_frameComplete (s : State) : s.ppuTick.out.count .frameComplete =
    s.out.count .frameComplete + if s.ppu.scanline = 261 ∧ s.ppu.dot = 340 then 1 else 0 := by
  unfold ppuTick
  dsimp only
  rw [advanceDot_out, renderPixel_out, vblankStart_out, renderBackground_out, preRender_out]
  simp [apply_ite (List.count HostEvent.frameComplete), pixelEvent]

end State

/-- The last dot of the frame is dot 89341. -/
theorem Ppu.InFrame.position_eq_last {p : Ppu} (h : p.InFrame) : p.position = 89341 ↔ p.scanline = 261 ∧ p.dot = 340 := by
  obtain ⟨hd, hs⟩ := h
  unfold Ppu.position
  omega

namespace State

/-- So `n` ticks raise it once for each frame they end (R901, R902). -/
theorem iterate_ppuTick_frameComplete {s : State} (h : s.ppu.InFrame) (n : Nat) :
    (ppuTick^[n] s).out.count .frameComplete = s.out.count .frameComplete + (s.ppu.position + n) / 89342 := by
  induction n with
  | zero => rw [Function.iterate_zero, id, Nat.add_zero, Nat.div_eq_of_lt h.position_lt, Nat.add_zero]
  | succ n ih =>
    rw [Function.iterate_succ_apply', ppuTick_frameComplete, ih,
      if_congr (iterate_ppuTick_inFrame h n).position_eq_last.symm rfl rfl, iterate_ppuTick_position h]
    split <;> omega

end State

/-- Settles O49: the ticks move the position, `iterate_ppuTick_position`, and signal each end of a frame,
`iterate_ppuTick_frameComplete`. -/
theorem framesAre89342Dots : Obligations.FramesAre89342Dots := by
  intro n s hd hs t
  have hframe : s.ppu.InFrame := ⟨hd, hs⟩
  obtain ⟨htd, hts⟩ := State.iterate_ppuTick_inFrame hframe n
  exact ⟨htd, hts, State.iterate_ppuTick_position hframe n, State.iterate_ppuTick_frameComplete hframe n⟩

namespace State

/-! ## The status flags -/

/-- The three flags of PPUSTATUS (R922). -/
def statusFlags (s : State) : Bool × Bool × Bool := (s.ppu.vblank, s.ppu.spriteZero, s.ppu.overflow)

/-- The pre-render clear clears the three (R951). -/
theorem preRender_statusFlags (s : State) (sl d : Nat) : (s.preRender sl d).statusFlags =
    if sl = 261 ∧ d = 1 then (false, false, false) else s.statusFlags := by
  unfold preRender
  split
  · rw [statusFlags, setNmiRequest_ppu, setPpu_ppu]
  · rfl

@[simp] theorem renderBackground_statusFlags (s : State) (sl d : Nat) (r : Bool) :
    (s.renderBackground sl d r).statusFlags = s.statusFlags := by
  obtain ⟨_, _, _, _, _, _, _, _, _, h⟩ := s.renderBackground_changes sl d r
  rw [h]
  rfl

/-- The start of vertical blank sets its flag (R950). -/
theorem vblankStart_statusFlags (s : State) (sl d : Nat) : (s.vblankStart sl d).statusFlags =
    if sl = 241 ∧ d = 1 then (true, s.statusFlags.2) else s.statusFlags := by
  unfold vblankStart statusFlags
  dsimp only
  split
  · rw [emit_ppu]
    split <;> simp
  · rfl

/-- A pixel leaves the vblank flag alone. -/
@[simp] theorem renderPixel_vblank (s : State) (sl d : Nat) : (s.renderPixel sl d).statusFlags.1 = s.statusFlags.1 := by
  unfold renderPixel
  split <;> rfl

@[simp] theorem advanceDot_statusFlags (s : State) (sl d : Nat) : (s.advanceDot sl d).statusFlags = s.statusFlags := by
  unfold advanceDot
  split
  · split <;> rfl
  · rfl

/-- The vblank flag is set at one dot of the frame and cleared at one (R950, R951, R952). -/
theorem ppuTick_vblank (s : State) : s.ppuTick.ppu.vblank =
    if s.ppu.scanline = 241 ∧ s.ppu.dot = 1 then true
    else if s.ppu.scanline = 261 ∧ s.ppu.dot = 1 then false
    else s.ppu.vblank := by
  change s.ppuTick.statusFlags.1 = _
  unfold ppuTick
  dsimp only
  rw [advanceDot_statusFlags, renderPixel_vblank, vblankStart_statusFlags, renderBackground_statusFlags, preRender_statusFlags,
    apply_ite Prod.fst, apply_ite Prod.fst]
  rfl

/-- The dot that clears it clears the other two (R951). -/
theorem ppuTick_statusFlags_preRender {s : State} (h : s.ppu.scanline = 261 ∧ s.ppu.dot = 1) :
    s.ppuTick.statusFlags = (false, false, false) := by
  have hpixel (u : State) : u.renderPixel s.ppu.scanline s.ppu.dot = u := if_neg (by omega)
  unfold ppuTick
  dsimp only
  rw [advanceDot_statusFlags, hpixel, vblankStart_statusFlags, if_neg (by omega), renderBackground_statusFlags,
    preRender_statusFlags, if_pos h]

/-- Vertical blank drives the request high where PPUCTRL enables it: an edge is absorbed or latched (R810, R950). -/
theorem ppuTick_nmiSignals_vblank {s : State} (h : s.ppu.scanline = 241 ∧ s.ppu.dot = 1) : s.ppuTick.nmiSignals =
    (s.ppu.ctrl, s.ppu.nmiRequest || s.ppu.ctrl.getLsbD 7,
      s.nmiPending || (!s.ppu.nmiRequest && s.ppu.ctrl.getLsbD 7 && !s.nmiConsumedAhead),
      s.nmiConsumedAhead && !(!s.ppu.nmiRequest && s.ppu.ctrl.getLsbD 7)) := by
  have hpre : ¬ (s.ppu.scanline = 261 ∧ s.ppu.dot = 1) := by omega
  rw [ppuTick_nmiSignals]
  cases s.ppu.ctrl.getLsbD 7
  case true =>
    rw [if_pos ⟨h, rfl⟩, setNmiRequest_nmiSignals]
    simp only [Bool.or_true, Bool.and_true]
  case false =>
    rw [if_neg (by simp), if_neg hpre]
    simp [nmiSignals]

end State

/-- Settles O50: the flag by `ppuTick_vblank` and `ppuTick_statusFlags_preRender`, the request and its edge by
`ppuTick_nmiSignals`. -/
theorem vblankBeginsAndEnds : Obligations.VblankBeginsAndEnds := by
  intro s t
  have hvblank : t.ppu.vblank = _ := s.ppuTick_vblank
  refine ⟨fun h => ?_, fun h => ?_, fun h241 h261 => ?_⟩
  · obtain ⟨-, hr, hp, ha⟩ : _ ∧ t.ppu.nmiRequest = _ ∧ t.nmiPending = _ ∧ t.nmiConsumedAhead = _ := by
      simpa only [State.nmiSignals, Prod.mk.injEq] using State.ppuTick_nmiSignals_vblank h
    rw [if_pos h] at hvblank
    refine ⟨hvblank, hr, fun hc hq => ?_⟩
    rw [hc, hq] at hp ha
    exact ⟨fun hahead => by simp [ha, hp, hahead], fun hahead => by simp [ha, hp, hahead]⟩
  · obtain ⟨hv, hz, ho⟩ : t.ppu.vblank = _ ∧ t.ppu.spriteZero = _ ∧ t.ppu.overflow = _ := by
      simpa only [State.statusFlags, Prod.mk.injEq] using State.ppuTick_statusFlags_preRender h
    have hr := congrArg (·.2.1) s.ppuTick_nmiSignals
    rw [if_neg (by omega), if_pos h, State.setNmiRequest_nmiSignals] at hr
    exact ⟨hv, hz, ho, hr⟩
  · have hsig := s.ppuTick_nmiSignals
    rw [if_neg fun hv => h241 hv.1, if_neg h261] at hsig
    rw [if_neg h241, if_neg h261] at hvblank
    simp only [State.nmiSignals, Prod.mk.injEq] at hsig
    exact ⟨hvblank, hsig.2⟩

end Sys2Proof.Machine
end

section
/-! Scroll arithmetic (R934, R935): the masks of the PPU address as arithmetic on its five fields. -/

namespace Sys2Proof.Machine

theorem toNat_or_of_and_eq_zero {w : Nat} {x y : BitVec w} (h : x &&& y = 0#w) : (x ||| y).toNat = x.toNat + y.toNat := by
  rw [← BitVec.add_eq_or_of_and_eq_zero x y h, BitVec.toNat_add_of_and_eq_zero h]

theorem and_not_and_and_eq_zero {w : Nat} (x y m : BitVec w) : (x &&& ~~~m) &&& (y &&& m) = 0#w := by
  rw [BitVec.and_comm y, BitVec.and_assoc, ← BitVec.and_assoc (~~~m), BitVec.not_and_self]
  simp

/-- The bits of a word outside a mask and those under it add up to the word. -/
theorem toNat_and_not_add_and {w : Nat} (v m : BitVec w) : (v &&& ~~~m).toNat + (v &&& m).toNat = v.toNat := by
  have hsplit : (v &&& ~~~m) ||| (v &&& m) = v := by
    ext i
    cases hm : m[i] <;> simp [hm]
  rw [← toNat_or_of_and_eq_zero (and_not_and_and_eq_zero v v m), hsplit]

/-- Flipping the bits of a mask adds the mask and takes away twice what stood under it. -/
theorem toNat_xor_add_and {w : Nat} (v m : BitVec w) : (v ^^^ m).toNat + 2 * (v &&& m).toNat = v.toNat + m.toNat := by
  have hsplit : v ^^^ m = (v &&& ~~~m) ||| (~~~v &&& m) := by
    ext i
    cases hm : m[i] <;> simp [hm]
  have hv := toNat_and_not_add_and v m
  have hm := toNat_and_not_add_and m v
  rw [BitVec.and_comm m v, BitVec.and_comm m] at hm
  rw [hsplit, toNat_or_of_and_eq_zero (and_not_and_and_eq_zero v (~~~v) m)]
  omega

/-- The bits of a word under the mask of `n` bits from bit `i` on, as a number. -/
theorem toNat_and_field {w : Nat} (v : BitVec w) {m : BitVec w} (i n : Nat) (hm : m.toNat = (2 ^ n - 1) * 2 ^ i) :
    (v &&& m).toNat = v.toNat / 2 ^ i % 2 ^ n * 2 ^ i := by
  rw [BitVec.toNat_and, hm, ← Nat.and_two_pow_sub_one_eq_mod]
  apply Nat.eq_of_testBit_eq
  intro k
  simp only [Nat.testBit_and, Nat.testBit_mul_two_pow, Nat.testBit_div_two_pow]
  by_cases hk : i ≤ k
  · simp [hk]
  · simp [hk]

/-! ## The fields of the address under their masks -/

theorem toNat_and_coarseX (v : BitVec 15) : (v &&& 0x001F#15).toNat = v.toNat % 32 := by
  have h := toNat_and_field v (m := 0x001F#15) 0 5 rfl
  omega

theorem toNat_and_coarseY (v : BitVec 15) : (v &&& 0x03E0#15).toNat = v.toNat / 32 % 32 * 32 := toNat_and_field v 5 5 rfl

theorem toNat_and_nametableX (v : BitVec 15) : (v &&& 0x0400#15).toNat = v.toNat / 1024 % 2 * 1024 := toNat_and_field v 10 1 rfl

theorem toNat_and_nametableY (v : BitVec 15) : (v &&& 0x0800#15).toNat = v.toNat / 2048 % 2 * 2048 := toNat_and_field v 11 1 rfl

theorem toNat_and_fineY (v : BitVec 15) : (v &&& 0x7000#15).toNat = v.toNat / 4096 * 4096 := by
  have h : (v &&& 0x7000#15).toNat = v.toNat / 4096 % 8 * 4096 := toNat_and_field v 12 3 rfl
  rw [h, Nat.mod_eq_of_lt (by omega)]

theorem toNat_clear_coarseX (v : BitVec 15) : (v &&& ~~~0x001F#15).toNat = v.toNat - v.toNat % 32 :=
  Nat.eq_sub_of_add_eq (toNat_and_coarseX v ▸ toNat_and_not_add_and v 0x001F#15)

theorem toNat_clear_coarseY (v : BitVec 15) : (v &&& ~~~0x03E0#15).toNat = v.toNat - v.toNat / 32 % 32 * 32 :=
  Nat.eq_sub_of_add_eq (toNat_and_coarseY v ▸ toNat_and_not_add_and v 0x03E0#15)

theorem toNat_clear_fineY (v : BitVec 15) : (v &&& ~~~0x7000#15).toNat = v.toNat % 4096 := by
  have h := toNat_and_fineY v ▸ toNat_and_not_add_and v 0x7000#15
  omega

theorem toNat_flip_nametableX (v : BitVec 15) :
    (v ^^^ 0x0400#15).toNat = v.toNat + 1024 - v.toNat / 1024 % 2 * 2048 := by
  have h := toNat_xor_add_and v 0x0400#15
  rw [toNat_and_nametableX, show (0x0400#15).toNat = 1024 from rfl] at h
  omega

theorem toNat_flip_nametableY (v : BitVec 15) :
    (v ^^^ 0x0800#15).toNat = v.toNat + 2048 - v.toNat / 2048 % 2 * 4096 := by
  have h := toNat_xor_add_and v 0x0800#15
  rw [toNat_and_nametableY, show (0x0800#15).toNat = 2048 from rfl] at h
  omega

theorem toNat_coarseY (v : BitVec 15) : (v >>> 5 &&& 0x1F#15).toNat = v.toNat / 32 % 32 := by
  rw [toNat_and_coarseX, BitVec.toNat_ushiftRight, Nat.shiftRight_eq_div_pow]

/-- Coarse Y counted on, below 31. -/
theorem toNat_succ_coarseY (v : BitVec 15) (h : v.toNat / 32 % 32 ≠ 31) :
    ((v &&& ~~~0x03E0#15) ||| ((v >>> 5 &&& 0x1F#15) + 1#15) <<< 5).toNat = v.toNat + 32 := by
  have hcy := toNat_coarseY v
  have hnext : (((v >>> 5 &&& 0x1F#15) + 1#15) <<< 5).toNat = v.toNat / 32 % 32 * 32 + 32 := by
    rw [BitVec.toNat_shiftLeft, BitVec.toNat_add, hcy, show (1#15).toNat = 1 from rfl, Nat.shiftLeft_eq]
    omega
  generalize ((v >>> 5 &&& 0x1F#15) + 1#15) <<< 5 = y at hnext
  have hmultiple : y.toNat / 32 % 32 * 32 = y.toNat := by omega
  have hfield : y &&& 0x03E0#15 = y := BitVec.eq_of_toNat_eq ((toNat_and_coarseY y).trans hmultiple)
  have hdisjoint : (v &&& ~~~0x03E0#15) &&& y = 0#15 := hfield ▸ and_not_and_and_eq_zero v y 0x03E0#15
  rw [toNat_or_of_and_eq_zero hdisjoint, toNat_clear_coarseY, hnext]
  omega

/-! ## The increments -/

/-- The address whose five fields are given, lowest first: coarse X, coarse Y, the nametable's two bits, fine Y (R903). -/
def loopyAddr (cx cy nx ny fy : Nat) : Nat := cx + 32 * cy + 1024 * nx + 2048 * ny + 4096 * fy

/-- Coarse X counts to 31 and then flips the horizontal nametable (R934). -/
theorem toNat_incCoarseX (v : BitVec 15) : (incCoarseX v).toNat =
    if v.toNat % 32 = 31 then
      loopyAddr 0 (v.toNat / 32 % 32) (1 - v.toNat / 1024 % 2) (v.toNat / 2048 % 2) (v.toNat / 4096)
    else loopyAddr (v.toNat % 32 + 1) (v.toNat / 32 % 32) (v.toNat / 1024 % 2) (v.toNat / 2048 % 2) (v.toNat / 4096) := by
  have hlast : v &&& 0x001F#15 = 31#15 ↔ v.toNat % 32 = 31 := by
    rw [← BitVec.toNat_inj, toNat_and_coarseX]
    rfl
  unfold incCoarseX loopyAddr
  simp only [BitVec.ofNat_eq_ofNat, hlast]
  split
  · rw [toNat_flip_nametableX, toNat_clear_coarseX]
    omega
  · rw [BitVec.toNat_add, show (1#15).toNat = 1 from rfl]
    omega

/-- Fine Y counts to 7, then coarse Y to 29 with a vertical flip, or to 31 without one (R935). -/
theorem toNat_incY (v : BitVec 15) : (incY v).toNat =
    if v.toNat / 4096 < 7 then
      loopyAddr (v.toNat % 32) (v.toNat / 32 % 32) (v.toNat / 1024 % 2) (v.toNat / 2048 % 2) (v.toNat / 4096 + 1)
    else if v.toNat / 32 % 32 = 29 then loopyAddr (v.toNat % 32) 0 (v.toNat / 1024 % 2) (1 - v.toNat / 2048 % 2) 0
    else if v.toNat / 32 % 32 = 31 then loopyAddr (v.toNat % 32) 0 (v.toNat / 1024 % 2) (v.toNat / 2048 % 2) 0
    else loopyAddr (v.toNat % 32) (v.toNat / 32 % 32 + 1) (v.toNat / 1024 % 2) (v.toNat / 2048 % 2) 0 := by
  have hfine : v &&& 0x7000#15 ≠ 0x7000#15 ↔ v.toNat / 4096 < 7 := by
    rw [ne_eq, ← BitVec.toNat_inj, toNat_and_fineY, show (0x7000#15).toNat = 7 * 4096 from rfl]
    omega
  have hrow (k : Nat) (hk : k < 32) :
      (v &&& ~~~0x7000#15) >>> 5 &&& 0x1F#15 = BitVec.ofNat 15 k ↔ v.toNat / 32 % 32 = k := by
    rw [← BitVec.toNat_inj, toNat_coarseY, toNat_clear_fineY, BitVec.toNat_ofNat]
    omega
  unfold incY loopyAddr
  simp only [BitVec.ofNat_eq_ofNat, hfine, hrow 29 (by decide), hrow 31 (by decide)]
  split
  case isTrue =>
    rw [BitVec.toNat_add, show (0x1000#15).toNat = 4096 from rfl]
    omega
  case isFalse h =>
    split
    · rw [toNat_clear_coarseY, toNat_flip_nametableY, toNat_clear_fineY]
      omega
    split
    · rw [toNat_clear_coarseY, toNat_clear_fineY]
      omega
    · rw [toNat_succ_coarseY _ (by rw [toNat_clear_fineY]; omega), toNat_clear_fineY]
      omega
end Sys2Proof.Machine
end

section
/-! The address of a dot (R930, R934 to R937): which dots of a rendering scanline step `v`, and how. -/

namespace Sys2Proof.Machine

namespace State

/-! ## The address of a dot -/

/-- The PPU address and its latch: what the scroll steps of a dot work on (R903). -/
def scroll (s : State) : BitVec 15 × BitVec 15 := (s.ppu.v, s.ppu.t)

@[simp] theorem preRender_scroll (s : State) (sl d : Nat) : (s.preRender sl d).scroll = s.scroll := by
  unfold preRender
  split
  · rw [scroll, setNmiRequest_ppu]
    rfl
  · rfl

@[simp] theorem vblankStart_scroll (s : State) (sl d : Nat) : (s.vblankStart sl d).scroll = s.scroll := by
  unfold vblankStart scroll
  dsimp only
  split
  · rw [emit_ppu]
    split <;> simp
  · rfl

@[simp] theorem renderPixel_scroll (s : State) (sl d : Nat) : (s.renderPixel sl d).scroll = s.scroll := by
  unfold renderPixel
  split <;> rfl

@[simp] theorem advanceDot_scroll (s : State) (sl d : Nat) : (s.advanceDot sl d).scroll = s.scroll := by
  unfold advanceDot
  split
  · split <;> rfl
  · rfl

/-- A fetch counts coarse X in its last dot (R930). -/
theorem fetchStep_scroll (s : State) (k : Nat) : (s.fetchStep k).scroll =
    (if k = 7 then incCoarseX s.ppu.v else s.ppu.v, s.ppu.t) := by
  unfold fetchStep
  split
  case h_6 =>
    rw [if_neg (by assumption)]
    rfl
  all_goals rfl

/-- A guarded step of the address. -/
theorem scroll_guarded {c : Prop} [Decidable c] {s : State} {v t : BitVec 15} (h : s.scroll = (v, t))
    (f : BitVec 15 → BitVec 15 → BitVec 15) :
    (if c then s.setPpu { s.ppu with v := f s.ppu.v s.ppu.t } else s).scroll = (if c then f v t else v, t) := by
  obtain ⟨rfl, rfl⟩ := Prod.mk.inj h
  split <;> rfl

/-- The address after the background part of a dot: coarse X, Y, and the copies from `t` (R930, R934 to R937). -/
def scrollSteps (sl d : Nat) (v t : BitVec 15) : BitVec 15 :=
  let v1 := if ((2 ≤ d ∧ d ≤ 257) ∨ (321 ≤ d ∧ d ≤ 337)) ∧ (d - 1) % 8 = 7 then incCoarseX v else v
  let v2 := if d = 256 then incY v1 else v1
  let v3 := if d = 257 then copyX v2 t else v2
  if sl = 261 ∧ 280 ≤ d ∧ d ≤ 304 then copyY v3 t else v3

theorem background_scroll (s : State) (sl d : Nat) :
    (s.background sl d).scroll = (scrollSteps sl d s.ppu.v s.ppu.t, s.ppu.t) := by
  have hfetch : (if (2 ≤ d ∧ d ≤ 257) ∨ (321 ≤ d ∧ d ≤ 337) then (s.setPpu s.ppu.shiftAll).fetchStep ((d - 1) % 8)
      else s).scroll =
      (if ((2 ≤ d ∧ d ≤ 257) ∨ (321 ≤ d ∧ d ≤ 337)) ∧ (d - 1) % 8 = 7 then incCoarseX s.ppu.v else s.ppu.v, s.ppu.t) := by
    rw [ite_and]
    split
    · exact fetchStep_scroll _ _
    · rfl
  exact scroll_guarded (scroll_guarded (scroll_guarded hfetch fun v _ => incY v) copyX) copyY

/-- A tick steps the address on a rendering scanline with rendering enabled, and keeps the latch. -/
theorem ppuTick_scroll (s : State) : s.ppuTick.scroll =
    (if (s.ppu.scanline ≤ 239 ∨ s.ppu.scanline = 261) ∧ s.ppu.rendering = true then
      scrollSteps s.ppu.scanline s.ppu.dot s.ppu.v s.ppu.t else s.ppu.v, s.ppu.t) := by
  have hpre := s.preRender_scroll s.ppu.scanline s.ppu.dot
  simp only [scroll, Prod.mk.injEq] at hpre
  obtain ⟨hv, ht⟩ := hpre
  unfold ppuTick
  dsimp only
  rw [advanceDot_scroll, renderPixel_scroll, vblankStart_scroll, renderBackground]
  split
  · rw [background_scroll, hv, ht]
  · rw [scroll, hv, ht]

end State

/-- Settles O51: the arithmetic by `toNat_incCoarseX` and `toNat_incY`, the dots by `ppuTick_scroll`. -/
theorem scrollCountersWrap : Obligations.ScrollCountersWrap := by
  refine ⟨fun v => ⟨toNat_incCoarseX v, toNat_incY v⟩, fun s => ?_⟩
  intro d v t renders coarse copiesY
  obtain ⟨hv, ht⟩ := Prod.mk.inj s.ppuTick_scroll
  have hrenders : renders ↔ (s.ppu.scanline ≤ 239 ∨ s.ppu.scanline = 261) ∧ s.ppu.rendering = true := by
    simp [renders, Ppu.rendering]
  rw [if_congr hrenders.symm rfl rfl] at hv
  refine ⟨ht, fun hr => ?_, fun hr => hv.trans (if_neg hr)⟩
  have hsteps : t.ppu.v = State.scrollSteps s.ppu.scanline d v s.ppu.t := hv.trans (if_pos hr)
  rw [hsteps]
  unfold State.scrollSteps
  dsimp only
  refine ⟨fun hc h256 => ?_, fun h256 => ?_, fun h257 => ?_, fun hy => ?_, fun hc h257 hy => ?_⟩
  · rw [if_neg (by omega), if_neg (by omega), if_neg h256, if_pos hc]
  · rw [if_neg (by omega), if_neg (by omega), if_pos h256, if_pos (by omega)]
  · rw [if_neg (by omega), if_pos h257, if_neg (by omega), if_neg (by omega)]
    rfl
  · rw [if_pos hy, if_neg (by omega), if_neg (by omega), if_neg (by omega)]
    rfl
  · rw [if_neg hy, if_neg h257, if_neg (by omega), if_neg hc]

end Sys2Proof.Machine
end

section
/-! The pixel of a visible dot (R960 to R965): what it delivers, and when it sets sprite-zero hit. -/

namespace Sys2Proof.Machine
namespace State

/-! ## The pixel of a visible dot -/

/-- What a sprite layer reads, the background part of a dot leaves alone. -/
theorem renderBackground_spritePixel (s : State) (sl d : Nat) (r : Bool) (px py : Nat) :
    (s.renderBackground sl d r).spritePixel px py = s.spritePixel px py := by
  obtain ⟨_, _, _, _, _, _, _, _, _, h⟩ := s.renderBackground_changes sl d r
  rw [h]
  rfl

theorem renderBackground_pixelEvent (s : State) (sl d : Nat) (r : Bool) :
    (s.renderBackground sl d r).pixelEvent = s.pixelEvent := by
  obtain ⟨_, _, _, _, _, _, _, _, _, h⟩ := s.renderBackground_changes sl d r
  rw [h]
  rfl

theorem renderBackground_hitsSpriteZero (s : State) (sl d : Nat) (r : Bool) :
    (s.renderBackground sl d r).hitsSpriteZero = s.hitsSpriteZero := by
  obtain ⟨_, _, _, _, _, _, _, _, _, h⟩ := s.renderBackground_changes sl d r
  rw [h]
  rfl

/-- A dot of a visible scanline is its background part, its pixel and the move (R930). -/
theorem ppuTick_visible {s : State} (h : s.ppu.scanline ≤ 239) : s.ppuTick =
    ((s.renderBackground s.ppu.scanline s.ppu.dot s.ppu.rendering).renderPixel s.ppu.scanline s.ppu.dot).advanceDot
      s.ppu.scanline s.ppu.dot := by
  have hpre : s.preRender s.ppu.scanline s.ppu.dot = s := if_neg (by omega)
  have hstart (u : State) : u.vblankStart s.ppu.scanline s.ppu.dot = u := if_neg (by omega)
  unfold ppuTick
  dsimp only
  rw [hpre, hstart]

/-- An opaque sprite pixel: its pattern is not 0, its palette one of the sprites' four, and it knows entry 0 (R962). -/
theorem spriteAt_eq_some {s : State} {px py i : Nat} {e : SpriteDot} (h : s.spriteAt px py i = some e) :
    e.pattern ≠ 0 ∧ 4 ≤ e.palette ∧ e.palette ≤ 7 ∧ e.zero = (i == 0) := by
  unfold spriteAt at h
  extract_lets at h
  split at h
  case isFalse => cases h
  case isTrue =>
    split at h
    case isTrue => cases h
    case isFalse hpat =>
      cases h
      refine ⟨hpat, Nat.le_add_right _ _, ?_, rfl⟩
      change 4 + _ ≤ 4 + 3
      exact Nat.add_le_add_left Nat.and_le_right 4

/-- The sprite layer's pixel is that of an entry (R963). -/
theorem spritePixel_eq_some {s : State} {px py : Nat} {e : SpriteDot} (h : s.spritePixel px py = some e) :
    ∃ i, s.spriteAt px py i = some e := by
  unfold spritePixel at h
  split at h
  · cases h
  · obtain ⟨i, -, hi⟩ := List.exists_of_findSome?_eq_some h
    exact ⟨i, hi⟩

/-- It says that it is entry 0's exactly when entry 0 gives it (R964). -/
theorem spritePixel_zero_iff (s : State) (px py : Nat) :
    ((s.spritePixel px py).map (·.zero)).getD false = true ↔
      s.spritePixel px py ≠ none ∧ s.spritePixel px py = s.spriteAt px py 0 := by
  cases hsp : s.spritePixel px py with
  | none => simp
  | some e =>
    obtain ⟨i, hi⟩ := spritePixel_eq_some hsp
    obtain ⟨-, -, -, hzero⟩ := spriteAt_eq_some hi
    rw [Option.map_some, Option.getD_some]
    constructor
    · intro he
      obtain rfl : i = 0 := beq_iff_eq.mp (hzero.symm.trans he)
      exact ⟨Option.some_ne_none e, hi.symm⟩
    · rintro ⟨-, h0⟩
      obtain ⟨-, -, -, he⟩ := spriteAt_eq_some h0.symm
      exact he

/-- When a pixel sets sprite-zero hit (R964). -/
theorem hitsSpriteZero_iff (s : State) (bg : Nat × Nat) (px py : Nat) :
    s.hitsSpriteZero bg (s.spritePixel px py) px = true ↔
      bg.1 ≠ 0 ∧ s.spritePixel px py ≠ none ∧ s.spritePixel px py = s.spriteAt px py 0 ∧ s.ppu.mask.getLsbD 3 = true ∧
        s.ppu.mask.getLsbD 4 = true ∧ px ≠ 255 := by
  unfold hitsSpriteZero
  simp only [Bool.and_eq_true, decide_eq_true_eq, spritePixel_zero_iff, and_assoc]

/-- A visible dot delivers its pixel (R960, R965). -/
theorem ppuTick_out_visible {s : State} (hsl : s.ppu.scanline ≤ 239) (h1 : 1 ≤ s.ppu.dot) (h256 : s.ppu.dot ≤ 256) :
    s.ppuTick.out = s.out ++ [s.pixelEvent (s.ppu.dot - 1) s.ppu.scanline (pixelAddr
      ((s.renderBackground s.ppu.scanline s.ppu.dot s.ppu.rendering).backgroundPixel (s.ppu.dot - 1))
      (s.spritePixel (s.ppu.dot - 1) s.ppu.scanline))] := by
  rw [ppuTick_visible hsl, advanceDot_out, if_neg (by omega), List.append_nil, renderPixel_out, if_pos ⟨hsl, h1, h256⟩,
    renderBackground_out, renderBackground_spritePixel, renderBackground_pixelEvent]

/-- And its pixel can set sprite-zero hit (R964). -/
theorem ppuTick_spriteZero_visible {s : State} (hsl : s.ppu.scanline ≤ 239) (h1 : 1 ≤ s.ppu.dot) (h256 : s.ppu.dot ≤ 256) :
    s.ppuTick.ppu.spriteZero = (s.ppu.spriteZero || s.hitsSpriteZero
      ((s.renderBackground s.ppu.scanline s.ppu.dot s.ppu.rendering).backgroundPixel (s.ppu.dot - 1))
      (s.spritePixel (s.ppu.dot - 1) s.ppu.scanline) (s.ppu.dot - 1)) := by
  have hmove (u : State) : (u.advanceDot s.ppu.scanline s.ppu.dot).ppu.spriteZero = u.ppu.spriteZero :=
    congrArg (·.2.1) (u.advanceDot_statusFlags _ _)
  have hbackground : (s.renderBackground s.ppu.scanline s.ppu.dot s.ppu.rendering).ppu.spriteZero = s.ppu.spriteZero :=
    congrArg (·.2.1) (s.renderBackground_statusFlags _ _ _)
  rw [ppuTick_visible hsl, hmove, renderPixel, if_pos ⟨hsl, h1, h256⟩, emitPixel]
  dsimp only
  rw [emit_ppu, setPpu_ppu, hbackground, renderBackground_spritePixel, renderBackground_hitsSpriteZero]

end State

/-- Settles O54: the event by `ppuTick_out_visible`, the hit by `ppuTick_spriteZero_visible`; the palette's address is
`pixelAddr`, by its cases. -/
theorem pixelsFollowThePriority : Obligations.PixelsFollowThePriority := by
  intro s hsl h1 h256 px py bg sp t entry
  have hout : entry (State.pixelAddr bg sp) := State.ppuTick_out_visible hsl h1 h256
  have hentry {a : Nat} (ha : State.pixelAddr bg sp = a) : entry a := ha ▸ hout
  refine ⟨?hit, fun hbg hsp => hentry ?_, fun hbg hsp => hentry ?_, fun e he =>
    ⟨fun hfront => hentry ?_, fun hbg hbehind => hentry ?_, ?_⟩⟩
  case hit =>
    rw [show t.ppu.spriteZero = _ from State.ppuTick_spriteZero_visible hsl h1 h256, Bool.or_eq_true, State.hitsSpriteZero_iff]
  · simp [State.pixelAddr, hsp, hbg]
  · simp [State.pixelAddr, hsp, hbg]
  · simp [State.pixelAddr, he, hfront]
  · simp [State.pixelAddr, he, hbg, hbehind]
  · obtain ⟨i, hi⟩ := State.spritePixel_eq_some he
    obtain ⟨hpat, h4, h7, -⟩ := State.spriteAt_eq_some hi
    exact ⟨hpat, h4, h7⟩

end Sys2Proof.Machine
end

section
/-! Accesses of the picture unit's registers (R212, R920 to R929): PPUSTATUS, PPUADDR and PPUDATA. -/

namespace Sys2Proof.Machine

/-! ## Reads -/

/-- A bit of a byte that a condition puts in. -/
theorem getLsbD_guarded (c : Prop) [Decidable c] (m : Byte) (i : Nat) :
    (if c then m else 0).getLsbD i = (decide c && m.getLsbD i) := by
  split <;> simp [*]

/-- The status bits are the top three (R922). -/
theorem statusByte_low (p : Ppu) : p.statusByte &&& 0x1F = 0#8 := by
  unfold Ppu.statusByte
  cases p.vblank <;> cases p.spriteZero <;> cases p.overflow <;> rfl

namespace State

/-- A read of a PPU register, through any of its mirrors (R212). -/
theorem memRead_ppuRegister (s : State) {a : Addr} (h : 0x2000 ≤ a.toNat) (h' : a.toNat ≤ 0x3FFF) : s.memRead a =
    ((s.ppuRegRead (a.toNat % 8)).1, (s.ppuRegRead (a.toNat % 8)).2.setOpenBus (s.ppuRegRead (a.toNat % 8)).1) := by
  unfold memRead busRead
  rw [if_neg (by omega), if_pos h']

/-- The status bits of a PPUSTATUS read, over the open bus (R922). -/
theorem readStatus_bits (s : State) :
    s.readStatus.1.getLsbD 7 = s.ppu.vblank ∧ s.readStatus.1.getLsbD 6 = s.ppu.spriteZero ∧
      s.readStatus.1.getLsbD 5 = s.ppu.overflow ∧ s.readStatus.1 &&& 0x1F = s.openBus &&& 0x1F := by
  have hbit (i : Nat) : s.readStatus.1.getLsbD i = (s.ppu.statusByte.getLsbD i || (s.openBus &&& 0x1F).getLsbD i) :=
    BitVec.getLsbD_or
  refine ⟨?_, ?_, ?_, ?low⟩
  case low =>
    change (s.ppu.statusByte ||| (s.openBus &&& 0x1F)) &&& 0x1F = _
    rw [BitVec.and_or_distrib_right, statusByte_low, BitVec.zero_or, BitVec.and_assoc, BitVec.and_self]
  all_goals
    rw [hbit, Ppu.statusByte]
    simp only [BitVec.getLsbD_or, getLsbD_guarded, BitVec.getLsbD_and]
    simp

/-- A PPUDATA read below the palette gives the buffer and refills it (R927). -/
theorem readData_buffered {s : State} (h : s.ppu.busAddr < 0x3F00) : s.readData =
    (s.ppu.readBuffer, s.setPpu { s.ppu with readBuffer := s.ppuRead s.ppu.busAddr, v := s.ppu.v + s.ppu.increment }) :=
  if_pos h

/-- One in the palette gives the entry and fills the buffer from the nametable below (R927). -/
theorem readData_palette {s : State} (h : 0x3F00 ≤ s.ppu.busAddr) : s.readData =
    (s.ppuRead s.ppu.busAddr,
      s.setPpu { s.ppu with readBuffer := s.ppuRead (s.ppu.busAddr - 0x1000), v := s.ppu.v + s.ppu.increment }) :=
  if_neg (Nat.not_lt.mpr h)

end State

/-- Settles O53: the register by `memRead_ppuRegister`, then `readStatus_bits`, `readData_buffered` and `readData_palette`. -/
theorem ppuReadsHaveTheirEffects : Obligations.PpuReadsHaveTheirEffects := by
  intro s a h h' r
  have hr : r = _ := s.memRead_ppuRegister h h'
  have hbus : s.ppu.v.toNat % 0x4000 = s.ppu.busAddr := rfl
  rw [hbus]
  refine ⟨fun h2 => ?_, fun h7 hv => ?_, fun h7 hv => ?_⟩
  · have hread : s.ppuRegRead (a.toNat % 8) = s.readStatus := by rw [h2]; rfl
    obtain ⟨hvblank, hzero, hoverflow, hlow⟩ := s.readStatus_bits
    rw [hr, hread]
    exact ⟨hvblank, hzero, hoverflow, hlow, rfl⟩
  · have hread : s.ppuRegRead (a.toNat % 8) = s.readData := by rw [h7]; rfl
    rw [hr, hread, State.readData_buffered hv]
    exact ⟨rfl, rfl, rfl⟩
  · have hread : s.ppuRegRead (a.toNat % 8) = s.readData := by rw [h7]; rfl
    rw [hr, hread, State.readData_palette hv]
    refine ⟨rfl, ?_, rfl⟩
    rw [State.setOpenBus_ppu, State.setPpu_ppu]

/-! ## PPUADDR -/

/-- The address two PPUADDR writes make: the low six bits of the first byte, then the second (R928). -/
def ppuAddress (hi lo : Byte) : BitVec 15 := BitVec.ofNat 15 (hi.toNat % 64 * 256 + lo.toNat)

theorem toNat_ppuAddress (hi lo : Byte) : (ppuAddress hi lo).toNat = hi.toNat % 64 * 256 + lo.toNat := by
  rw [ppuAddress, BitVec.toNat_ofNat]
  omega

/-- A word whose low `i` bits are clear, with those filled in. -/
theorem toNat_or_low {w : Nat} {x y : BitVec w} (i : Nat) (hx : x.toNat % 2 ^ i = 0) (hy : y.toNat < 2 ^ i) :
    (x ||| y).toNat = x.toNat + y.toNat := by
  obtain ⟨k, hk⟩ := Nat.dvd_of_mod_eq_zero hx
  rw [BitVec.toNat_or, hk, Nat.two_pow_add_eq_or_of_lt hy]

/-- What the second write makes of the latch the first one left. -/
theorem ppuAddr_latch (t : BitVec 15) (hi lo : Byte) :
    (((t &&& 0x00FF#15) ||| ((hi.setWidth 15 &&& 0x3F#15) <<< 8)) &&& 0x7F00#15) ||| lo.setWidth 15 = ppuAddress hi lo := by
  have hhigh : ((hi.setWidth 15 &&& 0x3F#15) <<< 8).toNat = hi.toNat % 64 * 256 := by
    have h : (hi.setWidth 15 &&& 0x3F#15).toNat = hi.toNat % 2 ^ 15 / 2 ^ 0 % 2 ^ 6 * 2 ^ 0 :=
      BitVec.toNat_setWidth 15 hi ▸ toNat_and_field (hi.setWidth 15) 0 6 rfl
    rw [BitVec.toNat_shiftLeft, Nat.shiftLeft_eq, h]
    omega
  have hlow : (t &&& 0x00FF#15).toNat = t.toNat / 2 ^ 0 % 2 ^ 8 * 2 ^ 0 := toNat_and_field t 0 8 rfl
  have hfirst : ((t &&& 0x00FF#15) ||| ((hi.setWidth 15 &&& 0x3F#15) <<< 8)).toNat =
      hi.toNat % 64 * 256 + t.toNat / 2 ^ 0 % 2 ^ 8 * 2 ^ 0 := by
    rw [BitVec.or_comm, toNat_or_low 8 (by rw [hhigh]; omega) (by rw [hlow]; omega), hhigh, hlow]
  have hmask := toNat_and_field ((t &&& 0x00FF#15) ||| ((hi.setWidth 15 &&& 0x3F#15) <<< 8)) (m := 0x7F00#15) 8 7 rfl
  have hsecond : (lo.setWidth 15).toNat = lo.toNat := by
    rw [BitVec.toNat_setWidth]
    omega
  apply BitVec.eq_of_toNat_eq
  rw [toNat_or_low 8 (by rw [hmask]; omega) (by rw [hsecond]; omega), hmask, hfirst, hsecond, toNat_ppuAddress]
  omega

namespace State

/-- With the toggle clear, two PPUADDR writes put the address into `t` and `v` (R928). -/
theorem memWrite_ppuAddr_twice {s : State} (h : s.ppu.w = false) (hi lo : Byte) :
    (s.memWrite 0x2006 hi).memWrite 0x2006 lo =
      { s with openBus := lo, ppu := { s.ppu with v := ppuAddress hi lo, t := ppuAddress hi lo, w := false } } := by
  have hfirst : s.memWrite 0x2006 hi =
      { s with
        openBus := hi
        ppu := { s.ppu with t := (s.ppu.t &&& 0x00FF#15) ||| ((hi.setWidth 15 &&& 0x3F#15) <<< 8), w := true } } :=
    if_neg (ne_true_of_eq_false h)
  rw [hfirst, ← ppuAddr_latch s.ppu.t hi lo]
  rfl

/-! ## PPUDATA writes -/

/-- The place a PPU-bus address reaches (R910 to R913). -/
def ppuLoc (s : State) (addr : Nat) : Loc :=
  if addr % 0x4000 < 0x2000 then .chr (s.chrIndex (addr % 0x4000))
  else if addr % 0x4000 < 0x3F00 then .nt (s.ntIndex (addr % 0x4000))
  else .pal (palIndex (addr % 0x4000))

theorem ppuRead_eq_readLoc (s : State) (addr : Nat) : s.ppuRead addr = s.readLoc (s.ppuLoc addr) := by
  unfold ppuRead ppuLoc
  dsimp only
  split
  · rfl
  · split <;> rfl

/-- A PPU-bus write reaches it, but for pattern ROM. -/
theorem ppuStoreLoc_eq (s : State) (addr : Nat) : s.ppuStoreLoc addr =
    if addr % 0x4000 < 0x2000 ∧ s.cart.chrBanks ≠ 0 then none else some (s.ppuLoc addr) := by
  unfold ppuStoreLoc ppuLoc
  dsimp only
  by_cases hchr : addr % 0x4000 < 0x2000 <;> by_cases hrom : s.cart.chrBanks = 0 <;> simp [hchr, hrom, apply_ite some]

/-- A PPUDATA write changes no place an address reaches. -/
theorem memWrite_ppuData_ppuLoc (s : State) (b : Byte) : (s.memWrite 0x2007 b).ppuLoc = s.ppuLoc := by
  obtain ⟨_, _, _, _, h, -⟩ := (s.setOpenBus b).ppuRegWrite_changes 7 b
  change ((s.setOpenBus b).ppuRegWrite 7 b).ppuLoc = _
  rw [h]
  rfl

/-- After it, an address that reaches the place written reads as the byte stored there. -/
theorem memWrite_ppuData_stores (s : State) (b : Byte) {addr : Nat} (h : s.ppuLoc addr = s.ppuLoc s.ppu.busAddr)
    (hram : 0x2000 ≤ s.ppu.busAddr % 0x4000) : (s.memWrite 0x2007 b).ppuRead addr = storedByte (s.ppuLoc addr) b := by
  have hstore : s.storeLoc 0x2007 = some (s.ppuLoc addr) := by
    change s.ppuStoreLoc s.ppu.busAddr = _
    rw [ppuStoreLoc_eq, if_neg (by omega), h]
  rw [ppuRead_eq_readLoc, memWrite_ppuData_ppuLoc]
  exact s.memWrite_stores 0x2007 b hstore

/-- To pattern ROM it changes nothing an address reads. -/
theorem memWrite_ppuData_rom (s : State) (b : Byte) (hrom : s.cart.chrBanks ≠ 0) (hchr : s.ppu.busAddr % 0x4000 < 0x2000)
    (addr : Nat) : (s.memWrite 0x2007 b).ppuRead addr = s.ppuRead addr := by
  have hstore : s.storeLoc 0x2007 = none := by
    change s.ppuStoreLoc s.ppu.busAddr = _
    rw [ppuStoreLoc_eq, if_pos ⟨hchr, hrom⟩]
  rw [ppuRead_eq_readLoc, memWrite_ppuData_ppuLoc, ppuRead_eq_readLoc]
  exact s.memWrite_keepsBytes 0x2007 b _ (by rw [hstore]; simp)

/-- `v` moves on (R927). -/
theorem memWrite_ppuData_v (s : State) (b : Byte) : (s.memWrite 0x2007 b).ppu.v = s.ppu.v + s.ppu.increment := rfl

end State

theorem Ppu.toNat_increment (p : Ppu) : p.increment.toNat = if p.ctrl.getLsbD 2 then 32 else 1 := by
  unfold increment
  split <;> rfl

/-- The sprites' backdrop entry is the background's (R913). -/
theorem palIndex_mirror {a : Nat} (h : a % 32 = 0) : State.palIndex (a + 16) = State.palIndex a := by
  have hhigh : (a + 16) % 32 = 16 := by omega
  simp [State.palIndex, h, hhigh]

/-- Settles O52: the address by `memWrite_ppuAddr_twice`, the byte by `memWrite_ppuData_stores`, in the palette with its
mirror. -/
theorem ppuDataWritesWherePpuAddrPoints : Obligations.PpuDataWritesWherePpuAddrPoints := by
  intro s hi lo b hw a u t
  have ha : a < 0x4000 := by
    have := Nat.mod_lt hi.toNat (show 0 < 64 by decide)
    omega
  have hu : u = _ := State.memWrite_ppuAddr_twice hw hi lo
  have hv : u.ppu.v.toNat = a := by rw [hu, toNat_ppuAddress]
  have ht : u.ppu.t.toNat = a := by rw [hu, toNat_ppuAddress]
  clear_value a
  have hbus : u.ppu.busAddr = a := by rw [Ppu.busAddr, hv, Nat.mod_eq_of_lt ha]
  have hstore {addr : Nat} (h2000 : 0x2000 ≤ a) (h : u.ppuLoc addr = u.ppuLoc a) :
      t.ppuRead addr = storedByte (u.ppuLoc addr) b :=
    u.memWrite_ppuData_stores b (hbus.symm ▸ h) (by omega)
  have hloc {addr : Nat} (hpal : 0x3F00 ≤ addr) (h : addr < 0x4000) : u.ppuLoc addr = .pal (State.palIndex addr) := by
    rw [State.ppuLoc, if_neg (by omega), if_neg (by omega), Nat.mod_eq_of_lt h]
  refine ⟨hv, ht, by rw [hu], ?v, fun h2000 hnt => ?nametable, fun hpal => ⟨?palette, fun hmirror => ?mirror⟩,
    fun hchr hrom => ?rom⟩
  case v =>
    rw [State.memWrite_ppuData_v, BitVec.toNat_add, hv, Ppu.toNat_increment, hu]
  case nametable =>
    have hloc : u.ppuLoc a = .nt (u.ntIndex (a % 0x4000)) := by
      rw [State.ppuLoc, if_neg (by omega), if_pos (by omega)]
    rw [hstore h2000 rfl, hloc]
    rfl
  case palette =>
    rw [hstore (by omega) rfl, hloc hpal ha, storedByte]
  case mirror =>
    have hloc' : u.ppuLoc (a + 16) = .pal (State.palIndex a) := by
      rw [hloc (addr := a + 16) (by omega) (by omega), palIndex_mirror hmirror]
    rw [hstore (by omega) (hloc'.trans (hloc hpal ha).symm), hloc', storedByte]
  case rom =>
    rw [show t.ppuRead a = _ from u.memWrite_ppuData_rom b (by rw [hu]; exact hrom) (by omega) a, hu]
    rfl

end Sys2Proof.Machine
end

section
/-! The sound unit's status read (R1019) and frame interrupt (R1060, R1064). -/

namespace Sys2Proof.Machine

/-! ## The status read -/

/-- Each bit of a $4015 read (R1019). -/
theorem Apu.statusByte_bits (a : Apu) (openBus : Byte) :
    let b := a.statusByte openBus
    b.getLsbD 0 = decide (a.p1.length ≠ 0) ∧ b.getLsbD 1 = decide (a.p2.length ≠ 0) ∧
    b.getLsbD 2 = decide (a.tri.length ≠ 0) ∧ b.getLsbD 3 = decide (a.noise.length ≠ 0) ∧
    b.getLsbD 4 = decide (a.dmc.bytesLeft ≠ 0) ∧ b.getLsbD 5 = openBus.getLsbD 5 ∧
    b.getLsbD 6 = a.fs.frameIrq ∧ b.getLsbD 7 = a.dmcIrq := by
  intro b
  have hbit (i : Nat) := congrArg (BitVec.getLsbD · i) (show b = a.statusByte openBus from rfl)
  simp only [Apu.statusByte, BitVec.getLsbD_or, getLsbD_guarded, BitVec.getLsbD_and] at hbit
  refine ⟨?_, ?_, ?_, ?_, ?_, ?_, ?_, ?_⟩ <;> rw [hbit] <;> simp

/-- Settles O55: the byte's bits are `Apu.statusByte_bits`, and the read is an acknowledgement. -/
theorem statusReadReportsAndAcknowledges : Obligations.StatusReadReportsAndAcknowledges := by
  intro s r
  obtain ⟨h0, h1, h2, h3, h4, h5, h6, h7⟩ := s.apu.statusByte_bits s.openBus
  exact ⟨h0, h1, h2, h3, h4, h5, h6, h7, rfl⟩

/-! ## The frame interrupt -/

/-- A sequencer step in 4-step mode, not inhibited, before its last two (R1060): it counts, and raises the interrupt when it is
the 29828th. -/
theorem Apu.frameStep_fs {a : Apu} (hmode : a.fs.mode = false) (hinhibit : a.fs.irqInhibit = false) (hc : a.fs.cycle ≤ 29827) :
    a.frameStep.fs =
      { a.fs with cycle := a.fs.cycle + 1, frameIrq := a.fs.frameIrq || decide (a.fs.cycle + 1 = 29828) } := by
  have hcounts {p : Prop} (hp : ¬ p) [Decidable p] : { a.fs with cycle := a.fs.cycle + 1 } =
      { a.fs with cycle := a.fs.cycle + 1, frameIrq := a.fs.frameIrq || decide p } := by simp [hp]
  unfold Apu.frameStep
  dsimp only
  split
  · exact hcounts (by omega)
  split
  · exact hcounts (by omega)
  rw [if_neg (show ¬ (a.setFsCycle (a.fs.cycle + 1)).fs.mode = true from ne_true_of_eq_false hmode)]
  split
  case isTrue h => simp [Apu.frameIrqSet, Apu.setFsCycle, hinhibit, h]
  rw [if_neg (by omega), if_neg (by omega)]
  exact hcounts (by omega)

/-- So its first `n` steps count, and raise the interrupt with the 29828th (R1064). -/
theorem Apu.iterate_frameStep_fs {a : Apu} (hmode : a.fs.mode = false) (hinhibit : a.fs.irqInhibit = false)
    (hcycle : a.fs.cycle = 0) (hirq : a.fs.frameIrq = false) {n : Nat} (hn : n ≤ 29828) :
    (Apu.frameStep^[n] a).fs = { a.fs with cycle := n, frameIrq := decide (n = 29828) } := by
  induction n with
  | zero =>
    have hfs : { a.fs with cycle := a.fs.cycle, frameIrq := a.fs.frameIrq } = a.fs := rfl
    rw [hcycle, hirq] at hfs
    exact hfs.symm
  | succ n ih =>
    have hprev := ih (by omega)
    have hcount : (Apu.frameStep^[n] a).fs.cycle ≤ 29827 := by
      rw [hprev]
      exact Nat.le_of_lt_succ hn
    have hbefore : decide (n = 29828) = false := decide_eq_false (by omega)
    rw [Function.iterate_succ_apply', frameStep_fs (by rw [hprev, hmode]) (by rw [hprev, hinhibit]) hcount, hprev, hbefore,
      Bool.false_or]

/-- Settles O56, by `Apu.iterate_frameStep_fs`. -/
theorem frameInterruptAfter29828Steps : Obligations.FrameInterruptAfter29828Steps := by
  intro a hmode hinhibit hcycle hirq n hn
  rw [Apu.iterate_frameStep_fs hmode hinhibit hcycle hirq hn]

end Sys2Proof.Machine
end
